-- ==== Sys2Proof/Word.lean ====
section
/-! DEFINITION. The word types: a byte, a 16-bit address and the 64-bit bus word (00_scope R25, R26; 30_encoding R150). -/

namespace Sys2Proof

/-- A data value: memory and I/O cycles move 8 bits (00_scope R26). -/
abbrev Byte := BitVec 8

/-- A memory address, `ADDR_WIDTH` = 16 bits (00_scope R25). -/
abbrev Addr := BitVec 16

/-- The bus word `Pins`: 64 bits, of which 39..0 are the canonical signals (30_encoding R150). -/
abbrev Pins := BitVec 64

end Sys2Proof
end

