-- ==== Sys2Proof/Machine/Operands.lean ====
section
/-! DEFINITION. The operand fields of the bus word: where each signal stands and how a field is read and set (30_encoding R150 to
R157). Every reader and writer of the bus word goes through these. -/

namespace Sys2Proof

/-- The field of `w` bits from bit `lo` up (30_encoding R151). -/
def Bus.field (lo w : Nat) (p : Pins) : BitVec w := p.extractLsb' lo w

/-- Setting a field replaces exactly its bits (R151). -/
def Bus.setField (lo : Nat) {w : Nat} (v : BitVec w) (p : Pins) : Pins :=
  (p &&& ~~~((BitVec.allOnes w).setWidth 64 <<< lo)) ||| (v.setWidth 64 <<< lo)

/-- The one-bit signal at position `n`; a set bit means the signal is asserted (R153). -/
def Bus.bit (n : Nat) (p : Pins) : Bool := p.getLsbD n

/-- Setting a one-bit signal. -/
def Bus.setBit (n : Nat) (b : Bool) (p : Pins) : Pins := Bus.setField n (BitVec.ofBool b) p

/-- The canonical mask: bits 39..0 (R152). -/
def Bus.canon : Pins := 0x000000FFFFFFFFFF#64

/-- "Mask result back to the canonical pin set" (R152). -/
def Bus.mask (p : Pins) : Pins := p &&& Bus.canon

/-- The word holds canonical bits only: bits 63..40 are zero. -/
abbrev Bus.Canonical (p : Pins) : Prop := Bus.mask p = p

/-- The address bus A15..A0. -/
def Bus.addr (p : Pins) : Addr := Bus.field 0 16 p

/-- The data bus D7..D0. -/
def Bus.data (p : Pins) : Byte := Bus.field 16 8 p

/-- The register-select address bits A1 A0 as one number (R151). -/
def Bus.reg (p : Pins) : BitVec 2 := Bus.field 0 2 p

/-- The five device-decode bits A7..A3 (R151). -/
def Bus.aSel (p : Pins) : BitVec 5 := Bus.field 3 5 p

def Bus.a0 (p : Pins) : Bool := Bus.bit 0 p
def Bus.a1 (p : Pins) : Bool := Bus.bit 1 p
def Bus.m1 (p : Pins) : Bool := Bus.bit 24 p
def Bus.mreq (p : Pins) : Bool := Bus.bit 25 p
def Bus.iorq (p : Pins) : Bool := Bus.bit 26 p
def Bus.rd (p : Pins) : Bool := Bus.bit 27 p
def Bus.wr (p : Pins) : Bool := Bus.bit 28 p
def Bus.int (p : Pins) : Bool := Bus.bit 30 p
def Bus.ieio (p : Pins) : Bool := Bus.bit 37 p
def Bus.reti (p : Pins) : Bool := Bus.bit 38 p

def Bus.setAddr (a : Addr) (p : Pins) : Pins := Bus.setField 0 a p
def Bus.setData (d : Byte) (p : Pins) : Pins := Bus.setField 16 d p

/-- Interrupt acknowledge is the combination M1 and IORQ (R154). -/
def Bus.isInta (p : Pins) : Bool := Bus.m1 p && Bus.iorq p

/-! ### Device-local fields of an I/O-controller stage (R155) -/

def Bus.ce (p : Pins) : Bool := Bus.bit 40 p
/-- 0 = port A, 1 = port B. -/
def Bus.basel (p : Pins) : Bool := Bus.bit 41 p
/-- 0 = data register, 1 = control register. -/
def Bus.cdsel (p : Pins) : Bool := Bus.bit 42 p
def Bus.portA (p : Pins) : Byte := Bus.field 48 8 p
def Bus.portB (p : Pins) : Byte := Bus.field 56 8 p
def Bus.setCe (p : Pins) : Pins := Bus.setBit 40 true p
/-- BASEL and CDSEL stand where CS0 and CS1 stand in the counter/timer stage: both are copies of A0 and A1 (R253). -/
def Bus.setSelects (p : Pins) : Pins := Bus.setBit 42 (Bus.a1 p) (Bus.setBit 41 (Bus.a0 p) p)
def Bus.setPorts (a b : Byte) (p : Pins) : Pins := Bus.setField 56 b (Bus.setField 48 a p)

/-! ### Device-local fields of the counter/timer stage (R156) -/

def Bus.cs0 (p : Pins) : Bool := Bus.bit 41 p
def Bus.cs1 (p : Pins) : Bool := Bus.bit 42 p
/-- The clock/trigger input of channel `k`. -/
def Bus.clktrg (k : Nat) (p : Pins) : Bool := Bus.bit (43 + k) p
def Bus.setClktrg (k : Nat) (b : Bool) (p : Pins) : Pins := Bus.setBit (43 + k) b p
/-- The terminal-count output of channel `k`. -/
def Bus.zcto (k : Nat) (p : Pins) : Bool := Bus.bit (47 + k) p

end Sys2Proof
end

