-- ==== Sys2Proof/Config.lean ====
section
/-! DEFINITION. What a configuration fixes: the OPEN parameters of 00_scope R25 as plain data, the collaborators of R15 to R24 as
functions the block calls, and the values the spec leaves free, as constants with no body. -/

namespace Sys2Proof

/-- The machine variants (00_scope R3). -/
inductive Variant where
  | mono
  | color
  deriving DecidableEq, Repr, Inhabited

/-- Which raw block backs a binding (20_memory R102). -/
inductive Store where
  | ram
  | rom
  deriving DecidableEq, Repr, Inhabited

/-- A memory-map binding (20_memory R102). -/
structure Binding where
  /-- the priority layer: a larger number wins (R104) -/
  layer : Nat
  /-- the first CPU address covered -/
  base : Nat
  /-- the number of addresses covered -/
  size : Nat
  /-- the block behind it -/
  store : Store
  /-- the index in that block of the byte at `base` -/
  offset : Nat
  /-- a write to it is absorbed (R113) -/
  readOnly : Bool
  deriving DecidableEq, Repr, Inhabited

/-- A palette entry. The source gives no colour values (43_execution_driver R361), so it is a bare code. -/
structure Colour where
  code : Nat
  deriving DecidableEq, Repr, Inhabited

/-- What a configuration fixes until the next Init: the OPEN parameters of 00_scope R25 and the collaborators (R13; 70_reset_and_hazards
R450). A state carries its own, so a statement over all states holds for every value of them. -/
structure Params where
  /-- the name of the configuration's set of collaborators, whose functions are no plain data (log entry 4) -/
  chipSet : Nat
  pio1Sel : BitVec 5
  pio2Sel : BitVec 5
  ctcSel : BitVec 5
  cascadeSrc : Nat
  cascadeDst : Nat
  audioCh : Nat
  clkHz : Nat
  vramBase : Nat
  aramBase : Nat
  ramSize : Nat
  /-- the expected image sizes of the monochrome variant, `ROM_IMAGES(VARIANT_MONO)` -/
  romImagesMono : List Nat
  /-- the expected image sizes of the colour variant -/
  romImagesColor : List Nat
  /-- `MEMORY_MAP(VARIANT_MONO)` -/
  mapMono : List Binding
  /-- `MEMORY_MAP(VARIANT_COLOR)` -/
  mapColor : List Binding
  unmappedRead : Byte
  entryAddr : Addr
  /-- `PINS_INIT`, a canonical word: only bits 39..0 exist -/
  pinsInit : BitVec 40
  monoFg : BitVec 3
  monoBg : BitVec 3
  /-- `PALETTE`, eight entries of display metadata -/
  palette : Vector Colour 8
  maxAudioSamples : Nat
  defaultAudioSamples : Nat
  deriving DecidableEq, Repr, Inhabited

/-- An audio sample. The source gives no format (00_scope R22), so it is a bare code. -/
structure Sample where
  code : Nat
  deriving DecidableEq, Repr, Inhabited

/-- The state of the CPU collaborator (00_scope R15). `code` is whatever else the chip holds, opaque to the block. -/
structure CpuChip where
  /-- the address of the next instruction fetch, the one thing the spec says of the CPU's registers (10_state R53, R74) -/
  pc : Addr
  code : List Nat
  deriving DecidableEq, Repr, Inhabited

/-- The scripted CPU of 30_encoding R171. -/
structure Script where
  /-- the lines, one bus word a `CpuTick` -/
  lines : List Pins
  /-- how many lines have been presented -/
  pos : Nat
  /-- the entry address `CpuSetEntry` recorded -/
  entry : Addr
  /-- the input pins recorded, oldest first -/
  seen : List Pins
  deriving DecidableEq, Repr, Inhabited

/-- The CPU of an instance: the chip itself, or the scripted CPU a test program is written for. -/
inductive CpuState where
  | chip (c : CpuChip)
  | scripted (sc : Script)
  deriving DecidableEq, Repr, Inhabited

/-- The state of one I/O controller, opaque to the block (10_state R56). -/
structure PioState where
  code : List Nat
  deriving DecidableEq, Repr, Inhabited

/-- The state of the counter/timer, opaque to the block (10_state R57). -/
structure CtcState where
  code : List Nat
  deriving DecidableEq, Repr, Inhabited

/-- The state of the audio generator, opaque to the block (10_state R58). -/
structure BeeperState where
  code : List Nat
  deriving DecidableEq, Repr, Inhabited

/-- The state of the keyboard matrix, opaque to the block (10_state R59). -/
structure KbdState where
  code : List Nat
  deriving DecidableEq, Repr, Inhabited

/-- What one I/O-controller tick gives (00_scope R17): its new state, the byte it drives on the data field if it drives one, its
interrupt request, its own part of the enable output, and its port outputs. The bus word it leaves is made from these, so that
it meets the contracts of R17, R19, R20 and R21 whatever the controller answers: `data` reaches the bus only in a register read or
an acknowledge (log entry 5). -/
structure PioReply where
  state : PioState
  data : Option Byte
  int : Bool
  ieo : Bool
  ardy : Bool
  brdy : Bool
  pa : Byte
  pb : Byte
  deriving DecidableEq, Repr, Inhabited

/-- What one counter/timer tick gives (00_scope R18, which sets no cycle in which it may drive the data field); bit k of `zcto` is
channel k's terminal-count output. -/
structure CtcReply where
  state : CtcState
  data : Option Byte
  int : Bool
  ieo : Bool
  zcto : BitVec 3
  deriving DecidableEq, Repr, Inhabited

/-- The collaborators (00_scope R13): total functions the block calls, each with the signature of R15 to R23. -/
structure Collaborators where
  cpuTick : CpuChip → Pins → CpuChip × Pins
  cpuInit : CpuChip
  cpuReset : CpuChip → CpuChip × Pins
  cpuSetEntry : CpuChip → Addr → CpuChip
  pioTick : PioState → Pins → PioReply
  pioReset : PioState
  ctcTick : CtcState → Pins → CtcReply
  ctcReset : CtcState
  beeperToggle : BeeperState → BeeperState
  beeperTick : BeeperState → BeeperState × Option Sample
  /-- `BeeperReset`, for the requested sample rate and volume, in that order: the one place they are passed to the generator (10_state
  R72; log entry 16) -/
  beeperReset : Nat → Nat → BeeperState
  kbdScanColumns : KbdState → Byte
  kbdScanLines : KbdState → Byte
  kbdSetActiveColumns : KbdState → Byte → KbdState
  kbdSetActiveLines : KbdState → Byte → KbdState
  kbdUpdate : KbdState → Nat → KbdState
  kbdInit : KbdState
  /-- a host key press, inside the keyboard collaborator (43_execution_driver R362) -/
  kbdKeyDown : KbdState → Nat → KbdState
  /-- a host key release -/
  kbdKeyUp : KbdState → Nat → KbdState
  deriving Inhabited

/-- The sets of collaborators, one for each name: functions that nothing here can evaluate (00_scope R13; log entry 4). -/
opaque Config.chips : Nat → Collaborators

/-- The collaborators a configuration carries (70_reset_and_hazards R450). -/
def Params.chips (P : Params) : Collaborators := Config.chips P.chipSet

/-- Byte i of the machine's own `INIT_RAM`, the fill of the RAM block where a configuration gives no byte of its own: an OPEN array
(70_reset_and_hazards R453; log entry 13). -/
opaque Config.initRam : Nat → Byte

/-- Byte i of the machine's own ROM block, the concatenation of its ROM images: the contents are not in the spec (00_scope R6). -/
opaque Config.romByte : Nat → Byte

/-- Byte i of the machine's own font image: the contents are not in the spec (00_scope R6). -/
opaque Config.fontByte : Nat → Byte

/-- The machine's own `PALETTE` (43_execution_driver R361): the source gives no colours (log entry 24). -/
opaque Config.palette : Vector Colour 8

/-- The free byte a data read leaves that no device answers, one per draw (41_io_daisy_chain R280, 60_exceptions R414). Two states with one
draw counter draw one byte (log entry 12). -/
opaque Config.freeByte : Nat → Byte

/-- The host's value of `Stopped` after a debug-hook call, one per draw (43_execution_driver R356). -/
opaque Config.stoppedDraw : Nat → Bool

/-- The audio-buffer entry i that fill `f` has not written: no defined value (10_state R67). -/
opaque Config.audioUndef (f : Nat) : Nat → Sample

/-- The default sample rate, which the source does not give (70_reset_and_hazards R452). -/
opaque Config.defaultSampleRate : Nat

/-- The default output volume, which the source does not give (70_reset_and_hazards R452). -/
opaque Config.defaultVolume : Nat

/-- The CPU signals a script line may add with `+NAME` (30_encoding R150, R171). -/
inductive Signal where
  | m1 | mreq | iorq | rd | wr | halt | int | res | nmi | wait | rfsh | ieio | reti
  deriving DecidableEq, Repr

/-- The lines of a bus script and its pseudo-lines (30_encoding R171, R172). `h` is the port's high address byte. -/
inductive ScriptLine where
  | idle
  | mrd (a : Addr)
  | mfetch (a : Addr)
  | mwr (a : Addr) (d : Byte)
  | refresh (a : Addr)
  | iord (p h : Byte)
  | iowr (p h d : Byte)
  | inta (a : Addr)
  | reti
  | plus (line : ScriptLine) (sig : Signal)
  | idles (n : Nat)
  | fill (a : Addr) (n : Nat) (d : Byte)
  | mrds (a : Addr) (n : Nat)
  deriving DecidableEq, Repr

end Sys2Proof
end

