-- ==== Sys2Proof/Machine/Reference.lean ====
section
/-! DEFINITION. The reference values of the OPEN parameters (00_scope R25; 93_implementation_defined G7 to G14), which `State.reset`
and the opcode table's rows use. They are the spec's unaudited general knowledge: no statement may rest on them (log entries 2, 3). -/

namespace Sys2Proof.Machine

/-- RAM at 0x0000 to 0xBFFF, layer 0 (93_implementation_defined G7). -/
def refRam : Binding := { layer := 0, base := 0x0000, size := 0xC000, store := .ram, offset := 0, readOnly := false }

/-- The character-memory window at 0xEC00 to 0xEFFF, layer 1 (G7). -/
def refCharWindow : Binding := { layer := 1, base := 0xEC00, size := 0x0400, store := .ram, offset := 0xEC00, readOnly := false }

/-- The attribute-memory window at 0xE800 to 0xEBFF, layer 1 (G7). -/
def refAttrWindow : Binding := { layer := 1, base := 0xE800, size := 0x0400, store := .ram, offset := 0xE800, readOnly := false }

/-- The colour variant's ROM at 0xC000 to 0xFFFF (G7). -/
def refRomColor : Binding := { layer := 0, base := 0xC000, size := 0x4000, store := .rom, offset := 0, readOnly := true }

/-- The monochrome variant's ROM at 0xF000 to 0xFFFF (G7). -/
def refRomMono : Binding := { layer := 0, base := 0xF000, size := 0x1000, store := .rom, offset := 0, readOnly := true }

/-- The reference parameters, with the machine's own collaborators and palette, of which nothing is known. -/
def referenceParams : Params where
  chipSet := 0
  pio1Sel := 0b10001#5
  pio2Sel := 0b10010#5
  ctcSel := 0b10000#5
  cascadeSrc := 2
  cascadeDst := 3
  audioCh := 0
  clkHz := 2457600
  vramBase := 0xEC00
  aramBase := 0xE800
  ramSize := 65536
  romImagesMono := [0x1000]
  romImagesColor := [0x2000, 0x2000]
  mapMono := [refRam, refRomMono, refCharWindow]
  mapColor := [refRam, refRomColor, refAttrWindow, refCharWindow]
  unmappedRead := 0xFF#8
  entryAddr := 0xF000#16
  pinsInit := 0#40
  monoFg := 7#3
  monoBg := 0#3
  palette := Config.palette
  maxAudioSamples := 1024
  defaultAudioSamples := 128

end Sys2Proof.Machine
end

