-- ==== Sys2Proof/Syntax.lean ====
section
/-! DEFINITION. The bus cycles the block decodes: one constructor per row of opcode_table.json (30_encoding R161 to R166).

A constructor carries the operand fields of its row. Every other signal of the bus word is not decoded: it stays in the state's bus word and reaches the peripherals from there. -/

namespace Sys2Proof

/-- One row of the decode map. `d` is the data field, `rd` and `wr` the read and write strobes the block passes to a peripheral
(41_io_daisy_chain R254), `a` the address field. The four unmapped rows carry the device-select bits their pattern leaves free. -/
inductive Instr where
  /-- no memory request (40_tick_engine R207) -/
  | memNone
  /-- memory read at `a` (R204) -/
  | memRd (a : Addr)
  /-- memory write of `d` at `a` (R205) -/
  | memWr (a : Addr) (d : Byte)
  /-- memory request with neither strobe: refresh or idle (R207) -/
  | memNoacc (a : Addr)
  /-- memory request with both strobes, the one illegal bus word (R206, 30_encoding R167) -/
  | memRdwr (a : Addr)
  /-- counter/timer channel 0 (41_io_daisy_chain R275) -/
  | ctcCh0 (d : Byte) (rd wr : Bool)
  /-- counter/timer channel 1 (R276) -/
  | ctcCh1 (d : Byte) (rd wr : Bool)
  /-- counter/timer channel 2 (R277) -/
  | ctcCh2 (d : Byte) (rd wr : Bool)
  /-- counter/timer channel 3 (R278) -/
  | ctcCh3 (d : Byte) (rd wr : Bool)
  /-- I/O controller #1, port A data (R265) -/
  | pio1DataA (d : Byte) (rd wr : Bool)
  /-- I/O controller #1, port B data (R266) -/
  | pio1DataB (d : Byte) (rd wr : Bool)
  /-- I/O controller #1, port A control (R267) -/
  | pio1CtrlA (d : Byte) (rd wr : Bool)
  /-- I/O controller #1, port B control (R268) -/
  | pio1CtrlB (d : Byte) (rd wr : Bool)
  /-- I/O controller #2, port A data (R272) -/
  | pio2DataA (d : Byte) (rd wr : Bool)
  /-- I/O controller #2, port B data (R272) -/
  | pio2DataB (d : Byte) (rd wr : Bool)
  /-- I/O controller #2, port A control (R273) -/
  | pio2CtrlA (d : Byte) (rd wr : Bool)
  /-- I/O controller #2, port B control (R273) -/
  | pio2CtrlB (d : Byte) (rd wr : Bool)
  /-- no I/O request (R252) -/
  | ioNone
  /-- unmapped I/O port with A7 = 0; `low` is A6..A3 (30_encoding R164) -/
  | ioUnmappedLo (low : BitVec 4) (d : Byte) (rd wr : Bool)
  /-- unmapped I/O port with A7..A6 = 11; `low` is A5..A3 -/
  | ioUnmappedHi (low : BitVec 3) (d : Byte) (rd wr : Bool)
  /-- unmapped I/O port with A7..A5 = 101; `low` is A4..A3 -/
  | ioUnmappedA0 (low : BitVec 2) (d : Byte) (rd wr : Bool)
  /-- unmapped I/O port with A7..A5 = 100; `low` is A4..A3, which is 11 under the reference selects (the row's 10011) -/
  | ioUnmapped98 (low : BitVec 2) (d : Byte) (rd wr : Bool)
  /-- interrupt acknowledge, M1 and IORQ together (30_encoding R154, R165) -/
  | inta (a : Addr)
  /-- the return-from-interrupt signal (30_encoding R166) -/
  | reti
  deriving DecidableEq, Repr

end Sys2Proof
end

