-- ==== Sys2Proof/WellFormed.lean ====
section
/-! DEFINITION. Which instructions and which parameters are well formed. -/

namespace Sys2Proof

/-- The three select values are pairwise distinct (00_scope R27). -/
abbrev Params.SelectsDistinct (P : Params) : Prop :=
  P.pio1Sel ≠ P.pio2Sel ∧ P.pio1Sel ≠ P.ctcSel ∧ P.pio2Sel ≠ P.ctcSel

/-- `sel` is no device's select value, so a port with these bits A7..A3 is unmapped (30_encoding R164). -/
abbrev Params.NoDevice (P : Params) (sel : BitVec 5) : Prop :=
  sel ≠ P.pio1Sel ∧ sel ≠ P.pio2Sel ∧ sel ≠ P.ctcSel

/-- The device-select bits A7..A3 of an unmapped row. -/
def Instr.unmappedSel : Instr → Option (BitVec 5)
  | .ioUnmappedLo low _ _ _ => some (0#1 ++ low)
  | .ioUnmappedHi low _ _ _ => some (3#2 ++ low)
  | .ioUnmappedA0 low _ _ _ => some (5#3 ++ low)
  | .ioUnmapped98 low _ _ _ => some (4#3 ++ low)
  | _ => none

/-- An instruction is well formed under parameters `P` when an unmapped row really is unmapped. Every value of every other operand
is an encoding of its row. -/
def Instr.wellFormed (P : Params) (i : Instr) : Bool :=
  match i.unmappedSel with
  | some sel => decide (P.NoDevice sel)
  | none => true

end Sys2Proof
end

