-- ==== Sys2Proof/Decode.lean ====
section
/-! DEFINITION. Decoding a bus word into the rows of opcode_table.json it matches, and the encoder.

The decode map has independent groups (30_encoding R161): every bus word matches exactly one memory row and exactly one I/O row, and
it may match the acknowledge row and the RETI row as well. So a word decodes to a small record of rows, and no word is rejected: the
one illegal word is a row of its own, MEM_RDWR (R167). -/

namespace Sys2Proof

/-- The rows one bus word matches, group by group. -/
structure Decoded where
  mem : Instr
  io : Instr
  ack : Option Instr
  sig : Option Instr
  deriving DecidableEq, Repr

/-- The memory group, decided by MREQ, RD, WR (30_encoding R162). -/
def decodeMem (p : Pins) : Instr :=
  match Bus.mreq p, Bus.rd p, Bus.wr p with
  | false, _, _ => .memNone
  | true, true, false => .memRd (Bus.addr p)
  | true, false, true => .memWr (Bus.addr p) (Bus.data p)
  | true, false, false => .memNoacc (Bus.addr p)
  | true, true, true => .memRdwr (Bus.addr p)

/-- The row of a device whose select matched, by A1 and A0. -/
def decodeReg (r0 r1 r2 r3 : Byte → Bool → Bool → Instr) (p : Pins) : Instr :=
  let r := match Bus.a1 p, Bus.a0 p with
    | false, false => r0
    | false, true => r1
    | true, false => r2
    | true, true => r3
  r (Bus.data p) (Bus.rd p) (Bus.wr p)

/-- The unmapped row of a port no device decodes, by A7..A5 (30_encoding R164). -/
def decodeUnmapped (p : Pins) : Instr :=
  match Bus.bit 7 p, Bus.bit 6 p, Bus.bit 5 p with
  | false, _, _ => .ioUnmappedLo (Bus.field 3 4 p) (Bus.data p) (Bus.rd p) (Bus.wr p)
  | true, true, _ => .ioUnmappedHi (Bus.field 3 3 p) (Bus.data p) (Bus.rd p) (Bus.wr p)
  | true, false, true => .ioUnmappedA0 (Bus.field 3 2 p) (Bus.data p) (Bus.rd p) (Bus.wr p)
  | true, false, false => .ioUnmapped98 (Bus.field 3 2 p) (Bus.data p) (Bus.rd p) (Bus.wr p)

/-- The I/O group, decided by IORQ and A7..A0 (30_encoding R163, R164). -/
def decodeIo (P : Params) (p : Pins) : Instr :=
  if Bus.iorq p = false then .ioNone
  else if Bus.aSel p = P.pio1Sel then decodeReg .pio1DataA .pio1DataB .pio1CtrlA .pio1CtrlB p
  else if Bus.aSel p = P.pio2Sel then decodeReg .pio2DataA .pio2DataB .pio2CtrlA .pio2CtrlB p
  else if Bus.aSel p = P.ctcSel then decodeReg .ctcCh0 .ctcCh1 .ctcCh2 .ctcCh3 p
  else decodeUnmapped p

/-- The acknowledge group, decided by M1 and IORQ (30_encoding R165). -/
def decodeAck (p : Pins) : Option Instr :=
  if Bus.isInta p then some (.inta (Bus.addr p)) else none

/-- The RETI signal (30_encoding R166). -/
def decodeSig (p : Pins) : Option Instr :=
  if Bus.reti p then some .reti else none

/-- Every row a bus word matches (30_encoding R161). -/
def decode (P : Params) (p : Pins) : Decoded :=
  { mem := decodeMem p, io := decodeIo P p, ack := decodeAck p, sig := decodeSig p }

/-- The row that names the peripheral phase of a word: the acknowledge row if it matches, else the RETI row, else the I/O row. All
the rows a word matches have one effect on it (log entry 8), so the choice names the phase and decides nothing. -/
def decodeBus (P : Params) (p : Pins) : Instr :=
  match decodeAck p, decodeSig p with
  | some i, _ => i
  | none, some i => i
  | none, none => decodeIo P p

/-- The row with the data field of the word replaced. No row is decoded from the data field, which is an operand alone. -/
def Instr.withData (i : Instr) (d : Byte) : Instr :=
  match i with
  | .memWr a _ => .memWr a d
  | .ctcCh0 _ rd wr => .ctcCh0 d rd wr
  | .ctcCh1 _ rd wr => .ctcCh1 d rd wr
  | .ctcCh2 _ rd wr => .ctcCh2 d rd wr
  | .ctcCh3 _ rd wr => .ctcCh3 d rd wr
  | .pio1DataA _ rd wr => .pio1DataA d rd wr
  | .pio1DataB _ rd wr => .pio1DataB d rd wr
  | .pio1CtrlA _ rd wr => .pio1CtrlA d rd wr
  | .pio1CtrlB _ rd wr => .pio1CtrlB d rd wr
  | .pio2DataA _ rd wr => .pio2DataA d rd wr
  | .pio2DataB _ rd wr => .pio2DataB d rd wr
  | .pio2CtrlA _ rd wr => .pio2CtrlA d rd wr
  | .pio2CtrlB _ rd wr => .pio2CtrlB d rd wr
  | .ioUnmappedLo low _ rd wr => .ioUnmappedLo low d rd wr
  | .ioUnmappedHi low _ rd wr => .ioUnmappedHi low d rd wr
  | .ioUnmappedA0 low _ rd wr => .ioUnmappedA0 low d rd wr
  | .ioUnmapped98 low _ rd wr => .ioUnmapped98 low d rd wr
  | .memNone | .memRd _ | .memNoacc _ | .memRdwr _ | .ioNone | .inta _ | .reti => i

/-- The one row a whole word is named by: its memory row when it requests memory, else the row of its peripheral phase, else
MEM_NONE. The word 0 matches MEM_NONE and IO_NONE alike (log entry 10). -/
def decodePrimary (P : Params) (p : Pins) : Instr :=
  if decodeMem p ≠ .memNone then decodeMem p
  else if decodeBus P p ≠ .ioNone then decodeBus P p
  else .memNone

/-- The I/O row's pattern and operands laid over a bus word: IORQ, the select, the register bits, data and strobes. -/
def presentIo (sel : BitVec 5) (reg : BitVec 2) (d : Byte) (rd wr : Bool) (p : Pins) : Pins :=
  Bus.setBit 28 wr (Bus.setBit 27 rd (Bus.setData d (Bus.setField 0 reg (Bus.setField 3 sel (Bus.setBit 26 true p)))))

/-- As `presentIo`, for an unmapped port: the register bits are no part of the row. -/
def presentUnmapped (sel : BitVec 5) (d : Byte) (rd wr : Bool) (p : Pins) : Pins :=
  Bus.setBit 28 wr (Bus.setBit 27 rd (Bus.setData d (Bus.setField 3 sel (Bus.setBit 26 true p))))

/-- The memory row's pattern and address laid over a bus word. -/
def presentMem (rd wr : Bool) (a : Addr) (p : Pins) : Pins :=
  Bus.setBit 28 wr (Bus.setBit 27 rd (Bus.setAddr a (Bus.setBit 25 true p)))

/-- The CPU presents row `i`: the row's fixed bits and its operand fields replace those of `p`; every other signal stays. On a word
that matches the row already this changes nothing. -/
def present (P : Params) (i : Instr) (p : Pins) : Pins :=
  match i with
  | .memNone => Bus.setBit 25 false p
  | .memRd a => presentMem true false a p
  | .memWr a d => Bus.setData d (presentMem false true a p)
  | .memNoacc a => presentMem false false a p
  | .memRdwr a => presentMem true true a p
  | .ctcCh0 d rd wr => presentIo P.ctcSel 0#2 d rd wr p
  | .ctcCh1 d rd wr => presentIo P.ctcSel 1#2 d rd wr p
  | .ctcCh2 d rd wr => presentIo P.ctcSel 2#2 d rd wr p
  | .ctcCh3 d rd wr => presentIo P.ctcSel 3#2 d rd wr p
  | .pio1DataA d rd wr => presentIo P.pio1Sel 0#2 d rd wr p
  | .pio1DataB d rd wr => presentIo P.pio1Sel 1#2 d rd wr p
  | .pio1CtrlA d rd wr => presentIo P.pio1Sel 2#2 d rd wr p
  | .pio1CtrlB d rd wr => presentIo P.pio1Sel 3#2 d rd wr p
  | .pio2DataA d rd wr => presentIo P.pio2Sel 0#2 d rd wr p
  | .pio2DataB d rd wr => presentIo P.pio2Sel 1#2 d rd wr p
  | .pio2CtrlA d rd wr => presentIo P.pio2Sel 2#2 d rd wr p
  | .pio2CtrlB d rd wr => presentIo P.pio2Sel 3#2 d rd wr p
  | .ioNone => Bus.setBit 26 false p
  | .ioUnmappedLo low d rd wr => presentUnmapped (0#1 ++ low) d rd wr p
  | .ioUnmappedHi low d rd wr => presentUnmapped (3#2 ++ low) d rd wr p
  | .ioUnmappedA0 low d rd wr => presentUnmapped (5#3 ++ low) d rd wr p
  | .ioUnmapped98 low d rd wr => presentUnmapped (4#3 ++ low) d rd wr p
  | .inta a => Bus.setAddr a (Bus.setBit 26 true (Bus.setBit 24 true p))
  | .reti => Bus.setBit 38 true p

/-- The encoder: the bus word of a row, with every signal the row does not fix at 0. -/
def encode (P : Params) (i : Instr) : Pins := present P i 0#64

/-- The row of opcode_table.json a constructor stands for: its match and its mask over the bus word, as the table prints them. The
device rows and the unmapped rows are those of the reference selects (30_encoding R162 to R166). -/
def tableRow (i : Instr) : Pins × Pins :=
  match i with
  | .memNone => (0x0#64, 0x2000000#64)
  | .memRd _ => (0xA000000#64, 0x1A000000#64)
  | .memWr _ _ => (0x12000000#64, 0x1A000000#64)
  | .memNoacc _ => (0x2000000#64, 0x1A000000#64)
  | .memRdwr _ => (0x1A000000#64, 0x1A000000#64)
  | .ctcCh0 _ _ _ => (0x4000080#64, 0x40000FB#64)
  | .ctcCh1 _ _ _ => (0x4000081#64, 0x40000FB#64)
  | .ctcCh2 _ _ _ => (0x4000082#64, 0x40000FB#64)
  | .ctcCh3 _ _ _ => (0x4000083#64, 0x40000FB#64)
  | .pio1DataA _ _ _ => (0x4000088#64, 0x40000FB#64)
  | .pio1DataB _ _ _ => (0x4000089#64, 0x40000FB#64)
  | .pio1CtrlA _ _ _ => (0x400008A#64, 0x40000FB#64)
  | .pio1CtrlB _ _ _ => (0x400008B#64, 0x40000FB#64)
  | .pio2DataA _ _ _ => (0x4000090#64, 0x40000FB#64)
  | .pio2DataB _ _ _ => (0x4000091#64, 0x40000FB#64)
  | .pio2CtrlA _ _ _ => (0x4000092#64, 0x40000FB#64)
  | .pio2CtrlB _ _ _ => (0x4000093#64, 0x40000FB#64)
  | .ioNone => (0x0#64, 0x4000000#64)
  | .ioUnmappedLo _ _ _ _ => (0x4000000#64, 0x4000080#64)
  | .ioUnmappedHi _ _ _ _ => (0x40000C0#64, 0x40000C0#64)
  | .ioUnmappedA0 _ _ _ _ => (0x40000A0#64, 0x40000E0#64)
  | .ioUnmapped98 _ _ _ _ => (0x4000098#64, 0x40000F8#64)
  | .inta _ => (0x5000000#64, 0x5000000#64)
  | .reti => (0x4000000000#64, 0x4000000000#64)

/-- A bus word matches a row of the table. -/
abbrev MatchesRow (p : Pins) (i : Instr) : Prop := p &&& (tableRow i).2 = (tableRow i).1

/-- The rows of the memory group, Tick step 2; every other row is of steps 3 to 5. -/
def isMemoryRow (i : Instr) : Bool :=
  match i with
  | .memNone | .memRd _ | .memWr _ _ | .memNoacc _ | .memRdwr _ => true
  | _ => false

/-- The row of `i`'s own group among the rows a word matches. -/
def Decoded.rowLike (r : Decoded) (i : Instr) : Option Instr :=
  match i with
  | .memNone | .memRd _ | .memWr _ _ | .memNoacc _ | .memRdwr _ => some r.mem
  | .inta _ => r.ack
  | .reti => r.sig
  | _ => some r.io

/-- The row the decoder reads from a word of `nbits` bits, numbered as opcode_table.json numbers them, under the reference
parameters the table's rows use. Bits above `nbits` are 0; a number that does not fit is no word. -/
def decodeTableWord (nbits w : Nat) : Option Instr :=
  if nbits ≤ 64 ∧ w < 2 ^ nbits then some (decodePrimary Machine.referenceParams (BitVec.ofNat 64 w)) else none

end Sys2Proof
end

