-- ==== Sys2Proof/Machine/Cells.lean ====
section
/-! DEFINITION. A block of like cells (RAM, ROM, font, framebuffer bytes; audio samples) as plain data: the list of the cells that
differ from what an unlisted index reads as, in one canonical form. `bg` gives what an unlisted index reads as. -/

namespace Sys2Proof.Machine

/-- The cell at index `i`. -/
def cellRead {α : Type} (bg : Nat → α) : List (Nat × α) → Nat → α
  | [], i => bg i
  | (j, w) :: m, i => if i = j then w else cellRead bg m i

/-- The block with index `i` holding `v`. Indexes stay strictly rising, and a cell equal to its background is not listed. -/
def cellWrite {α : Type} [DecidableEq α] (bg : Nat → α) : List (Nat × α) → Nat → α → List (Nat × α)
  | [], i, v => if v = bg i then [] else [(i, v)]
  | (j, w) :: m, i, v =>
    if i < j then (if v = bg i then (j, w) :: m else (i, v) :: (j, w) :: m)
    else if i = j then (if v = bg i then m else (i, v) :: m)
    else (j, w) :: cellWrite bg m i v

/-- A sequence of writes, in order. -/
def cellWriteAll {α : Type} [DecidableEq α] (bg : Nat → α) (m : List (Nat × α)) : List (Nat × α) → List (Nat × α)
  | [] => m
  | (i, v) :: ws => cellWriteAll bg (cellWrite bg m i v) ws

/-- The writes that put a list of values at the indexes from `i` up. -/
def indexedFrom {α : Type} : Nat → List α → List (Nat × α)
  | _, [] => []
  | i, v :: vs => (i, v) :: indexedFrom (i + 1) vs

/-- The block that holds exactly the given values from index 0 up. -/
def cellsOf {α : Type} [DecidableEq α] (bg : Nat → α) (vs : List α) : List (Nat × α) :=
  cellWriteAll bg [] (indexedFrom 0 vs)

/-- Every listed index is at least `n`. -/
def cellsFrom {α : Type} (n : Nat) (m : List (Nat × α)) : Bool := m.all fun c => decide (n ≤ c.1)

/-- The canonical form: indexes strictly rising, and no cell equal to what an unlisted index reads as. -/
def cellsWf {α : Type} [DecidableEq α] (bg : Nat → α) : List (Nat × α) → Bool
  | [] => true
  | (i, v) :: m => decide (v ≠ bg i) && cellsFrom (i + 1) m && cellsWf bg m

/-- Every listed index is below `n`: the block has `n` cells. -/
def cellsBelow {α : Type} (n : Nat) (m : List (Nat × α)) : Bool := m.all fun c => decide (c.1 < n)

end Sys2Proof.Machine
end

