-- ==== Sys2Proof/Machine/Flags.lean ====
section
/-! DEFINITION. The block's status bits and how each is computed (10_state R75): the interrupt request and the daisy-chain enable as
a peripheral leaves them, the chip-select, and the blink bit. The block has no condition codes. -/

namespace Sys2Proof.Machine

/-- INT is a wired OR: a device adds its request and clears none (00_scope R20, 41_io_daisy_chain R260). -/
def intAfter (request : Bool) (p : Pins) : Bool := Bus.int p || request

/-- The enable output is 1 only if the enable input is 1 (00_scope R19). -/
def ieioAfter (own : Bool) (p : Pins) : Bool := Bus.ieio p && own

/-- Before I/O controller #1 the chain is forced on (41_io_daisy_chain R258). -/
def chainHead (p : Pins) : Pins := Bus.setBit 37 true p

/-- The chip-select condition of a device with select value `sel` (41_io_daisy_chain R250). -/
def selected (sel : BitVec 5) (p : Pins) : Bool := Bus.iorq p && (Bus.aSel p == sel)

/-- Assert CE when the port decode matches (41_io_daisy_chain R250), then copy the register-select bits (R253). -/
def withSelects (sel : BitVec 5) (p : Pins) : Pins :=
  Bus.setSelects (if selected sel p then Bus.setCe p else p)

/-- A register read as a device sees it: an I/O read with its CE asserted (30_encoding R155, 41_io_daisy_chain R254). DESIGN CHOICE: a cycle
with both RD and WR, which 30_encoding R168 allows, counts as a read (log entry 12). -/
def registerRead (p : Pins) : Bool := Bus.iorq p && Bus.ce p && Bus.rd p

/-- The cycles in which an I/O controller may drive the data field: a register read or an interrupt acknowledge (00_scope R17). -/
def mayDriveData (p : Pins) : Bool := registerRead p || Bus.isInta p

/-- The byte an I/O controller drives, if it answers with one in a cycle in which it may (00_scope R17). -/
def pioData (r : PioReply) (p : Pins) : Option Byte := if mayDriveData p then r.data else none

/-- The part of a peripheral's answer that the canonical bus carries: data if it drives it, request, enable output. -/
def driveShared (data : Option Byte) (request own : Bool) (p : Pins) : Pins :=
  Bus.setBit 37 (ieioAfter own p) (Bus.setBit 30 (intAfter request p)
    (match data with | some d => Bus.setData d p | none => p))

/-- The flip of bit 7 of the blink flip-flop; bits 6..0 stay (40_tick_engine R226). -/
def blinkFlip (ff : BitVec 8) : BitVec 8 := ff ^^^ 0x80#8

/-- Bit 7 of the blink flip-flop, the only bit the video decode reads (40_tick_engine R228). -/
def blinkBit (ff : BitVec 8) : Bool := ff.getLsbD 7

/-- `BLINK_RELOAD` = `CLK_HZ / 25`, as the 32-bit counter holds it (00_scope R25). -/
def blinkReload (P : Params) : BitVec 32 := BitVec.ofNat 32 (P.clkHz / 25)

end Sys2Proof.Machine
end

