-- ==== Sys2Proof/Machine/State.lean ====
section
/-! DEFINITION. The block's state (10_state R50 to R72) as plain data, why a step can stop, what the host hands to and gets from the
block, and the state after Init. -/

namespace Sys2Proof.Machine

/-- The host operations (43_execution_driver R350), named in the faults they raise. -/
inductive HostOp where
  | init | reset | discard | execute | keyDown | keyUp | quickload | saveSnapshot | loadSnapshot | displayInfo
  deriving DecidableEq, Repr

/-- The configuration checks of 00_scope R27 and 20_memory R103, named in `Fault.configIllFormed`. -/
inductive ConfigCheck where
  | selects | cascade | audioChannel | videoBlocks | clock | bindingRange | bindingStore | romWritable | layerOverlap | audioCount
  deriving DecidableEq, Repr

/-- Which image a size check is about. -/
inductive ImageId where
  | rom (k : Nat)
  | font
  deriving DecidableEq, Repr

/-- Why an operation ends in a fault (60_exceptions R401). A faulted run is over (R400). -/
inductive Fault where
  /-- Raised by any host operation on a null instance, and by Init, Quickload and LoadSnapshot on a null required argument. Safe: the spec
  names this fault. -/
  | nullArgument (op : HostOp)
  /-- Raised by any host operation but Init, and by the step, when `valid` is false. Safe: the spec names this fault. -/
  | invalidInstance (op : HostOp)
  /-- Raised by Init for an image whose size is not the variant's. Safe: the spec names this fault. -/
  | romSizeMismatch (image : ImageId) (expected given : Nat)
  /-- Raised by Init for a requested sample count above the capacity. Safe: the spec names this fault. -/
  | audioBufferOversize (count : Nat)
  /-- Raised by Init for a configuration outside 00_scope R27 or 20_memory R103. Safe: the spec names this fault. -/
  | configIllFormed (check : ConfigCheck)
  /-- Raised by MEM_RDWR, a bus word with MREQ, RD and WR all set (40_tick_engine R206). Safe: the spec names this fault. -/
  | busReadWriteBoth (word : Pins)
  deriving DecidableEq, Repr

/-- The fault's code (60_exceptions R401). -/
def Fault.code : Fault → Nat
  | .nullArgument _ => 1
  | .invalidInstance _ => 2
  | .romSizeMismatch _ _ _ => 3
  | .audioBufferOversize _ => 4
  | .configIllFormed _ => 5
  | .busReadWriteBoth _ => 6

/-- Why the model gives no outcome. -/
inductive Refusal where
  /-- Raised by an arm of `exec` whose instruction has no meaning yet; no arm does. Safe. -/
  | notModelled (mnemonic : String)
  deriving DecidableEq, Repr

/-- An output event (00_scope R29): a full audio buffer delivered (40_tick_engine R222), or a debug-hook call with the post-tick
pins (43_execution_driver R356). -/
inductive Event where
  | audioBuffer (samples : List Sample)
  | debugHook (pins : Pins)
  deriving DecidableEq, Repr

/-- The debug hook: the host's callback and its Stopped flag (10_state R71). -/
structure Hook where
  callback : Nat
  stopped : Bool
  deriving DecidableEq, Repr, Inhabited

/-- The audio configuration (10_state R72); no rule of the block reads it. -/
structure AudioCfg where
  callback : Nat
  sampleRate : Nat
  volume : Nat
  deriving DecidableEq, Repr, Inhabited

/-- The block's state (10_state R50). The last two fields are the model's own. -/
structure State where
  valid : Bool
  params : Params
  variant : Variant
  cpu : CpuState
  pins : Pins
  ctcCascade : Bool
  pio1 : PioState
  pio2 : PioState
  ctc : CtcState
  beeper : BeeperState
  kbd : KbdState
  map : List Binding
  ram : List Host.Cell
  rom : List Host.Cell
  font : List Host.Cell
  fb : List Host.Cell
  blinkCounter : BitVec 32
  blinkFF : BitVec 8
  audioBuf : List (Nat × Sample)
  audioPos : Nat
  audioN : Nat
  clkRem : Nat
  hook : Option Hook
  audioCfg : AudioCfg
  events : List Event
  draws : Nat
  audioFill : Nat
  deriving DecidableEq, Repr, Inhabited

/-- The fields of an instance after Discard, of which the spec says nothing but `valid` (70_reset_and_hazards R458). -/
opaque Config.discarded : State → State

/-- Which CPU an instance is built with: the machine's own, or the scripted one (30_encoding R171). -/
inductive CpuChoice where
  | chip
  | scripted (lines : List Pins)
  deriving DecidableEq, Repr

/-- The configuration `Init` is given (70_reset_and_hazards R450). `none` in place of an image is a missing image. -/
structure InitConfig where
  variant : Variant
  params : Params
  cpu : CpuChoice
  /-- `INIT_RAM`, byte i of the RAM block; the machine's own array stands past the list's end (log entry 13) -/
  initRam : List Byte
  romImages : List (Option (List Byte))
  font : Option (List Byte)
  hook : Option Hook
  audioCallback : Nat
  audioRate : Nat
  audioCount : Nat
  audioVolume : Nat
  deriving DecidableEq, Repr

/-- What an accepted load gives the block: memory writes and, for the signed format, an entry address (43_execution_driver R363). -/
structure LoadImage where
  writes : List (Addr × Byte)
  entry : Option Addr
  deriving DecidableEq, Repr

/-- What the Loader or the snapshot codec makes of the argument it is given: rejected, an ordinary failure and no fault, or accepted (60_exceptions
R402; 43_execution_driver R363). -/
inductive Offered (α : Type) where
  | rejected
  | accepted (a : α)
  deriving DecidableEq, Repr

/-- The display metadata (43_execution_driver R361). -/
structure DisplayInfo where
  width : Nat
  height : Nat
  stride : Nat
  bytesPerPixel : Nat
  fbSize : Nat
  palette : List Colour
  /-- the framebuffer reference: null without an instance -/
  buffer : Option (List Host.Cell)
  deriving DecidableEq, Repr

/-- The state Init leaves under the reference parameters: the colour variant, the machine's own CPU, ROM and font images, no debug
hook, and every audio request 0 (70_reset_and_hazards R452; log entries 1 to 3). -/
def State.reset : State where
  valid := true
  params := referenceParams
  variant := .color
  cpu := .chip { referenceParams.chips.cpuSetEntry referenceParams.chips.cpuInit 0xF000#16 with pc := 0xF000#16 }
  pins := 0#64
  ctcCascade := false
  pio1 := referenceParams.chips.pioReset
  pio2 := referenceParams.chips.pioReset
  ctc := referenceParams.chips.ctcReset
  beeper := referenceParams.chips.beeperReset Config.defaultSampleRate Config.defaultVolume
  kbd := referenceParams.chips.kbdInit
  map := [refRam, refRomColor, refAttrWindow, refCharWindow]
  ram := []
  rom := []
  font := []
  fb := []
  blinkCounter := 0#32
  blinkFF := 0#8
  audioBuf := []
  audioPos := 0
  audioN := 128
  clkRem := 0
  hook := none
  audioCfg := { callback := 0, sampleRate := Config.defaultSampleRate, volume := Config.defaultVolume }
  events := []
  draws := 1
  audioFill := 0

end Sys2Proof.Machine
end

