-- ==== Sys2Proof/Machine/Ops.lean ====
section
/-! DEFINITION. The named operations of the block over its state: the memory-bank address decoder, the CPU collaborator, the three
peripheral stages with the interrupt daisy chain, the audio step and the blink step. Each stage takes the collaborators as an
argument, so a statement about it can hold for every collaborator that meets a contract (00_scope R13).

The block takes no exception and returns from none: what an interrupt saves and where it goes is the CPU's (60_exceptions R415).
Its share is ONE shared operation, `ioPhase`: the peripherals ticked in chain order, which an acknowledge cycle and RETI go through
like every other cycle (R414, R417). -/

namespace Sys2Proof.Machine

/-! ### Memory (20_memory) -/

/-- The machine's own `INIT_RAM`, what an unlisted RAM byte reads as (70_reset_and_hazards R453). -/
def ramBg : Nat → Byte := Config.initRam
/-- The machine's own ROM contents, what an unlisted ROM byte reads as. -/
def romBg : Nat → Byte := Config.romByte
/-- The machine's own font, what an unlisted font byte reads as. -/
def fontBg : Nat → Byte := Config.fontByte
/-- The framebuffer before the first decode (10_state R64). -/
def fbBg : Nat → Byte := fun _ => 0#8

/-- The binding covers address `a` (20_memory R102). -/
def Binding.coversAddr (b : Binding) (a : Nat) : Bool := decide (b.base ≤ a) && decide (a < b.base + b.size)

/-- The binding that serves an address: the covering binding of the highest layer (R104). -/
def topBinding : List Binding → Nat → Option Binding
  | [], _ => none
  | b :: bs, a =>
    match topBinding bs a with
    | none => if Binding.coversAddr b a then some b else none
    | some t => if Binding.coversAddr b a && decide (t.layer < b.layer) then some b else some t

/-- The index in the binding's block of the byte at address `a` (R110). -/
def Binding.indexOf (b : Binding) (a : Nat) : Nat := b.offset + (a - b.base)

/-- `MemRead(a, 1)` (R110). -/
def memRead (s : State) (a : Addr) : Byte :=
  match topBinding s.map a.toNat with
  | none => s.params.unmappedRead
  | some b =>
    match b.store with
    | .ram => cellRead ramBg s.ram (Binding.indexOf b a.toNat)
    | .rom => cellRead romBg s.rom (Binding.indexOf b a.toNat)

/-- The RAM index a write at address `a` stores to: none when the top binding is absent or read-only (R112, R113). -/
def memWriteIndex (s : State) (a : Addr) : Option Nat :=
  match topBinding s.map a.toNat with
  | none => none
  | some b => if b.readOnly then none else some (Binding.indexOf b a.toNat)

/-- `MemWrite(a, 1, v)` (R112). -/
def memWrite (s : State) (a : Addr) (v : Byte) : State :=
  { s with ram := match memWriteIndex s a with
      | none => s.ram
      | some k => cellWrite ramBg s.ram k v }

/-! ### The CPU collaborator (00_scope R15) -/

/-- `CpuSetEntry`: the CPU's next instruction fetch is from `a`; the scripted CPU records it (R15; 30_encoding R171). -/
def cpuSetEntry (C : Collaborators) (c : CpuState) (a : Addr) : CpuState :=
  match c with
  | .chip ch => .chip { C.cpuSetEntry ch a with pc := a }
  | .scripted sc => .scripted { sc with entry := a }

/-- `CpuInit`, for the chosen CPU; the scripted CPU starts at line 1, with nothing recorded (log entry 32). -/
def cpuInit (C : Collaborators) (k : CpuChoice) : CpuState :=
  match k with
  | .chip => .chip C.cpuInit
  | .scripted lines => .scripted { lines := lines, pos := 0, entry := 0#16, seen := [] }

/-- `CpuReset`: the scripted CPU restarts at line 1 and returns pins 0 (30_encoding R171). DESIGN CHOICE: it keeps its record of input
pins and its recorded entry, of which R171 says nothing (log entry 32). -/
def cpuReset (C : Collaborators) (c : CpuState) : CpuState × Pins :=
  match c with
  | .chip ch => (.chip (C.cpuReset ch).1, (C.cpuReset ch).2)
  | .scripted sc => (.scripted { sc with pos := 0 }, 0#64)

/-- The address of the CPU's next instruction fetch after an entry was set (10_state R53). -/
def cpuNextFetch (c : CpuState) : Addr :=
  match c with
  | .chip ch => ch.pc
  | .scripted sc => sc.entry

/-- `CpuTick`: one clock cycle of the CPU. The scripted CPU presents its next line, and IDLE after its last (30_encoding R171). -/
def cpuTick (C : Collaborators) (c : CpuState) (p : Pins) : CpuState × Pins :=
  match c with
  | .chip ch => (.chip (C.cpuTick ch p).1, (C.cpuTick ch p).2)
  | .scripted sc => (.scripted { sc with pos := sc.pos + 1, seen := sc.seen ++ [p] }, sc.lines.getD sc.pos 0#64)

/-- Tick step 1: the CPU takes the stored bus word and gives the cycle's, masked to the canonical set (40_tick_engine R202). -/
def cpuPhase (C : Collaborators) (s : State) : State :=
  { s with cpu := (cpuTick C s.cpu s.pins).1, pins := Bus.mask (cpuTick C s.cpu s.pins).2 }

/-! ### The peripherals' tick functions over the bus word (00_scope R17, R18) -/

/-- The bus word an I/O controller leaves: its shared signals, its ready lines and its two port outputs. -/
def pioDrive (r : PioReply) (p : Pins) : Pins :=
  Bus.setPorts r.pa r.pb (Bus.setBit 44 r.brdy (Bus.setBit 43 r.ardy (driveShared (pioData r p) r.int r.ieo p)))

/-- `PioTick` (R17). -/
def pioTick (C : Collaborators) (st : PioState) (p : Pins) : PioState × Pins :=
  ((C.pioTick st p).state, pioDrive (C.pioTick st p) p)

/-- The bus word the counter/timer leaves: its shared signals and its terminal-count outputs. -/
def ctcDrive (r : CtcReply) (p : Pins) : Pins :=
  Bus.setField 47 r.zcto (driveShared r.data r.int r.ieo p)

/-- `CtcTick` (R18). -/
def ctcTick (C : Collaborators) (st : CtcState) (p : Pins) : CtcState × Pins :=
  ((C.ctcTick st p).state, ctcDrive (C.ctcTick st p) p)

/-! ### Tick steps 3 to 5: the peripheral stages and the daisy chain (41_io_daisy_chain) -/

/-- The bus word I/O controller #1 is ticked with: chain head, chip-select, register select (R262). -/
def pio1Input (s : State) : Pins := withSelects s.params.pio1Sel (chainHead s.pins)

/-- Tick step 3 (R262). -/
def pio1Stage (C : Collaborators) (s : State) : State :=
  { s with pio1 := (pioTick C s.pio1 (pio1Input s)).1, pins := Bus.mask (pioTick C s.pio1 (pio1Input s)).2 }

/-- The bus word I/O controller #2 is ticked with: its two ports hold the complemented keyboard scan (R269, R270). -/
def pio2Input (C : Collaborators) (s : State) : Pins :=
  Bus.setPorts (~~~ C.kbdScanColumns s.kbd) (~~~ C.kbdScanLines s.kbd) (withSelects s.params.pio2Sel s.pins)

/-- The keyboard's active columns, then lines, from the complemented ports I/O controller #2 leaves (R271). -/
def kbdFeedback (C : Collaborators) (k : KbdState) (p : Pins) : KbdState :=
  C.kbdSetActiveLines (C.kbdSetActiveColumns k (~~~ Bus.portA p)) (~~~ Bus.portB p)

/-- Tick step 4 (R269). -/
def pio2Stage (C : Collaborators) (s : State) : State :=
  { s with
    pio2 := (pioTick C s.pio2 (pio2Input C s)).1
    kbd := kbdFeedback C s.kbd (pioTick C s.pio2 (pio2Input C s)).2
    pins := Bus.mask (pioTick C s.pio2 (pio2Input C s)).2 }

/-- The bus word the counter/timer is ticked with: the cascade latch on its clock/trigger input, chip-select, channel select
(R274, R279). -/
def ctcInput (s : State) : Pins :=
  withSelects s.params.ctcSel (Bus.setClktrg s.params.cascadeDst s.ctcCascade s.pins)

/-- Tick step 5: the counter/timer, the audio toggle (R281) and the capture of the cascade latch (R279). -/
def ctcStage (C : Collaborators) (s : State) : State :=
  { s with
    ctc := (ctcTick C s.ctc (ctcInput s)).1
    beeper := if Bus.zcto s.params.audioCh (ctcTick C s.ctc (ctcInput s)).2 then C.beeperToggle s.beeper else s.beeper
    ctcCascade := Bus.zcto s.params.cascadeSrc (ctcTick C s.ctc (ctcInput s)).2
    pins := Bus.mask (ctcTick C s.ctc (ctcInput s)).2 }

/-- Steps 3 to 5 in their fixed order, which is the priority order (40_tick_engine R200, 41_io_daisy_chain R259). -/
def chainStages (C : Collaborators) (s : State) : State := ctcStage C (pio2Stage C (pio1Stage C s))

/-- Some peripheral drove the data field in steps 3 to 5. -/
def dataAnswered (C : Collaborators) (s : State) : Bool :=
  (pioData (C.pioTick s.pio1 (pio1Input s)) (pio1Input s)).isSome
    || (pioData (C.pioTick (pio1Stage C s).pio2 (pio2Input C (pio1Stage C s))) (pio2Input C (pio1Stage C s))).isSome
    || (C.ctcTick (pio2Stage C (pio1Stage C s)).ctc (ctcInput (pio2Stage C (pio1Stage C s)))).data.isSome

/-- The cycle asks for data that nobody need answer: an acknowledge (60_exceptions R414), or an I/O read, of an unmapped port
(41_io_daisy_chain R280) or of a device that drives nothing (92_eei_decisions D40). DESIGN CHOICE: it does so whether or not the same
word is a memory cycle as well, so that the free byte replaces a byte step 2 read, and whether or not WR is 1 beside RD (log entry 12). -/
def dataWanted (s : State) : Bool := Bus.isInta s.pins || (Bus.iorq s.pins && Bus.rd s.pins)

/-- The data field floats: data is asked for and no device answers. -/
def dataFloats (C : Collaborators) (s : State) : Bool := dataWanted s && !dataAnswered C s

/-- Tick steps 3 to 5 with the data an unanswered cycle leaves: any byte, a free value of its own (R280, R414). -/
def ioPhase (C : Collaborators) (s : State) : State :=
  { chainStages C s with
    pins := if dataFloats C s then Bus.setData (Config.freeByte s.draws) (chainStages C s).pins else (chainStages C s).pins
    draws := if dataFloats C s then s.draws + 1 else s.draws }

/-- The CPU presents row `i` on the state's bus word. -/
def presentRow (i : Instr) (s : State) : State := { s with pins := present s.params i s.pins }

/-! ### Tick step 6: the audio buffer (40_tick_engine R220 to R224) -/

/-- Entry `i` of the audio buffer; one the current fill has not written has no defined value (10_state R67). -/
def audioEntry (s : State) (i : Nat) : Sample := cellRead (Config.audioUndef s.audioFill) s.audioBuf i

/-- The buffer with a sample appended at the write position (R221). -/
def audioAppend (s : State) (v : Sample) : List (Nat × Sample) :=
  cellWrite (Config.audioUndef s.audioFill) s.audioBuf s.audioPos v

/-- The sample fills the buffer (R222). -/
def audioFull (s : State) : Bool := decide (s.audioPos + 1 = s.audioN)

/-- The samples a full buffer delivers, in append order (R222). -/
def audioDelivery (s : State) (v : Sample) : List Sample :=
  (List.range s.audioN).map (cellRead (Config.audioUndef s.audioFill) (audioAppend s v))

/-- Append a sample; when that fills the buffer, deliver it, return the write position to 0 and begin a fill whose entries are
undefined until written (R221, R222; 10_state R67). -/
def audioPush (s : State) (v : Sample) : State :=
  { s with
    audioBuf := if audioFull s then [] else audioAppend s v
    audioPos := if audioFull s then 0 else s.audioPos + 1
    audioFill := if audioFull s then s.draws else s.audioFill
    draws := if audioFull s then s.draws + 1 else s.draws
    events := if audioFull s then s.events ++ [.audioBuffer (audioDelivery s v)] else s.events }

/-- What an optional sample does to a state. -/
def audioTake (s : State) (v : Option Sample) : State :=
  match v with
  | none => s
  | some x => audioPush s x

/-- Tick step 6 (R220). The other fields are those of `s` whether or not a sample came. -/
def audioStep (C : Collaborators) (s : State) : State :=
  { s with
    beeper := (C.beeperTick s.beeper).1
    audioBuf := (audioTake s (C.beeperTick s.beeper).2).audioBuf
    audioPos := (audioTake s (C.beeperTick s.beeper).2).audioPos
    audioFill := (audioTake s (C.beeperTick s.beeper).2).audioFill
    draws := (audioTake s (C.beeperTick s.beeper).2).draws
    events := (audioTake s (C.beeperTick s.beeper).2).events }

/-! ### Tick step 7: the blink divider (40_tick_engine R226) -/

/-- Tick step 7: decrement; on underflow reload and flip bit 7 (R226). -/
def blinkStep (s : State) : State :=
  { s with
    blinkCounter := if s.blinkCounter = 0#32 then blinkReload s.params else s.blinkCounter - 1#32
    blinkFF := if s.blinkCounter = 0#32 then blinkFlip s.blinkFF else s.blinkFF }

/-! ### The debug hook (43_execution_driver R356) -/

/-- The hook says stop; without a hook nothing does. -/
def hookStopped (s : State) : Bool :=
  match s.hook with
  | none => false
  | some h => h.stopped

/-- The debug-hook call after a Tick: an event with the post-tick pins, after which `Stopped` is whatever the host left (R356). -/
def hookCall (draw : Nat → Bool) (s : State) : State :=
  { s with
    events := if s.hook.isSome then s.events ++ [.debugHook s.pins] else s.events
    hook := s.hook.map fun h => { h with stopped := draw s.draws }
    draws := if s.hook.isSome then s.draws + 1 else s.draws }

/-- Sequencing: the next operation runs on a next state; a fault or a refusal ends. -/
def andThen {α β : Type} (o : Host.Outcome α Fault Refusal) (f : α → Host.Outcome β Fault Refusal) : Host.Outcome β Fault Refusal :=
  match o with
  | .next s => f s
  | .fault r => .fault r
  | .refused r => .refused r

end Sys2Proof.Machine
end

