-- ==== Sys2Proof/Machine/Interrupt.lean ====
section
/-! DEFINITION. The acknowledge row and the RETI signal (60_exceptions R414, R417). The block does nothing special for either: it ticks
the peripherals in chain order with the pins as they stand, and they answer. -/

namespace Sys2Proof.Machine

/-- INTA: the peripherals see M1 and IORQ in chain order; when none answers, the data field is any byte (R414). -/
def execInta (a : Addr) (s : State) : Host.Outcome State Fault Refusal :=
  .next (ioPhase s.params.chips (presentRow (.inta a) s))

/-- RETI: the signal reaches all three peripherals in chain order (R417). -/
def execReti (s : State) : Host.Outcome State Fault Refusal :=
  .next (ioPhase s.params.chips (presentRow .reti s))

end Sys2Proof.Machine
end

