-- ==== Sys2Proof/Machine/IoCycle.lean ====
section
/-! DEFINITION. The I/O group: what steps 3 to 5 of a Tick do for each of its rows (41_io_daisy_chain R250 to R281). Every row runs the
three peripheral stages in chain order (R252, R259); the row decides which device sees its chip enable and which register it selects,
because the row's pattern and operands stand on the bus word the stages decode. -/

namespace Sys2Proof.Machine

/-- CTC_CH0: the counter/timer sees CE with channel 0 (R275). -/
def execCtcCh0 (d : Byte) (rd wr : Bool) (s : State) : Host.Outcome State Fault Refusal :=
  .next (ioPhase s.params.chips (presentRow (.ctcCh0 d rd wr) s))

/-- CTC_CH1: the counter/timer sees CE with channel 1 (R276). -/
def execCtcCh1 (d : Byte) (rd wr : Bool) (s : State) : Host.Outcome State Fault Refusal :=
  .next (ioPhase s.params.chips (presentRow (.ctcCh1 d rd wr) s))

/-- CTC_CH2: the counter/timer sees CE with channel 2 (R277). -/
def execCtcCh2 (d : Byte) (rd wr : Bool) (s : State) : Host.Outcome State Fault Refusal :=
  .next (ioPhase s.params.chips (presentRow (.ctcCh2 d rd wr) s))

/-- CTC_CH3: the counter/timer sees CE with channel 3 (R278). -/
def execCtcCh3 (d : Byte) (rd wr : Bool) (s : State) : Host.Outcome State Fault Refusal :=
  .next (ioPhase s.params.chips (presentRow (.ctcCh3 d rd wr) s))

/-- PIO1_DATA_A: I/O controller #1 sees CE, port A, data (R265). -/
def execPio1DataA (d : Byte) (rd wr : Bool) (s : State) : Host.Outcome State Fault Refusal :=
  .next (ioPhase s.params.chips (presentRow (.pio1DataA d rd wr) s))

/-- PIO1_DATA_B: I/O controller #1 sees CE, port B, data (R266). -/
def execPio1DataB (d : Byte) (rd wr : Bool) (s : State) : Host.Outcome State Fault Refusal :=
  .next (ioPhase s.params.chips (presentRow (.pio1DataB d rd wr) s))

/-- PIO1_CTRL_A: I/O controller #1 sees CE, port A, control (R267). -/
def execPio1CtrlA (d : Byte) (rd wr : Bool) (s : State) : Host.Outcome State Fault Refusal :=
  .next (ioPhase s.params.chips (presentRow (.pio1CtrlA d rd wr) s))

/-- PIO1_CTRL_B: I/O controller #1 sees CE, port B, control (R268). -/
def execPio1CtrlB (d : Byte) (rd wr : Bool) (s : State) : Host.Outcome State Fault Refusal :=
  .next (ioPhase s.params.chips (presentRow (.pio1CtrlB d rd wr) s))

/-- PIO2_DATA_A: I/O controller #2 sees CE, port A, data, with the keyboard columns on its port (R272). -/
def execPio2DataA (d : Byte) (rd wr : Bool) (s : State) : Host.Outcome State Fault Refusal :=
  .next (ioPhase s.params.chips (presentRow (.pio2DataA d rd wr) s))

/-- PIO2_DATA_B: I/O controller #2 sees CE, port B, data, with the keyboard lines on its port (R272). -/
def execPio2DataB (d : Byte) (rd wr : Bool) (s : State) : Host.Outcome State Fault Refusal :=
  .next (ioPhase s.params.chips (presentRow (.pio2DataB d rd wr) s))

/-- PIO2_CTRL_A: I/O controller #2 sees CE, port A, control (R273). -/
def execPio2CtrlA (d : Byte) (rd wr : Bool) (s : State) : Host.Outcome State Fault Refusal :=
  .next (ioPhase s.params.chips (presentRow (.pio2CtrlA d rd wr) s))

/-- PIO2_CTRL_B: I/O controller #2 sees CE, port B, control (R273). -/
def execPio2CtrlB (d : Byte) (rd wr : Bool) (s : State) : Host.Outcome State Fault Refusal :=
  .next (ioPhase s.params.chips (presentRow (.pio2CtrlB d rd wr) s))

/-- IO_NONE: no CE in any stage; every device is still ticked (R252). -/
def execIoNone (s : State) : Host.Outcome State Fault Refusal :=
  .next (ioPhase s.params.chips (presentRow .ioNone s))

/-- IO_UNMAPPED_LO: no CE; the data of a read is any byte (R280). -/
def execIoUnmappedLo (low : BitVec 4) (d : Byte) (rd wr : Bool) (s : State) : Host.Outcome State Fault Refusal :=
  .next (ioPhase s.params.chips (presentRow (.ioUnmappedLo low d rd wr) s))

/-- IO_UNMAPPED_HI: no CE; the data of a read is any byte (R280). -/
def execIoUnmappedHi (low : BitVec 3) (d : Byte) (rd wr : Bool) (s : State) : Host.Outcome State Fault Refusal :=
  .next (ioPhase s.params.chips (presentRow (.ioUnmappedHi low d rd wr) s))

/-- IO_UNMAPPED_A0: no CE; the data of a read is any byte (R280). -/
def execIoUnmappedA0 (low : BitVec 2) (d : Byte) (rd wr : Bool) (s : State) : Host.Outcome State Fault Refusal :=
  .next (ioPhase s.params.chips (presentRow (.ioUnmappedA0 low d rd wr) s))

/-- IO_UNMAPPED_98: no CE; the data of a read is any byte (R280). -/
def execIoUnmapped98 (low : BitVec 2) (d : Byte) (rd wr : Bool) (s : State) : Host.Outcome State Fault Refusal :=
  .next (ioPhase s.params.chips (presentRow (.ioUnmapped98 low d rd wr) s))

end Sys2Proof.Machine
end

