-- ==== Sys2Proof/Machine/MemoryCycle.lean ====
section
/-! DEFINITION. The memory group: what step 2 of a Tick does for each of its rows (40_tick_engine R203 to R207). A meaning takes the
state after step 1, whose `pins` hold the cycle's bus word. -/

namespace Sys2Proof.Machine

/-- MEM_NONE: no memory access (R207). -/
def execMemNone (s : State) : Host.Outcome State Fault Refusal := .next s

/-- MEM_RD: the byte at `a` replaces the data field; every other pin stays (R204). -/
def execMemRd (a : Addr) (s : State) : Host.Outcome State Fault Refusal :=
  .next { s with pins := Bus.setData (memRead s a) s.pins }

/-- MEM_WR: at most one byte of RAM changes; the pins stay (R205). -/
def execMemWr (a : Addr) (d : Byte) (s : State) : Host.Outcome State Fault Refusal :=
  .next (memWrite s a d)

/-- MEM_NOACC: a refresh or an idle request reads and writes nothing (R207). -/
def execMemNoacc (s : State) : Host.Outcome State Fault Refusal := .next s

/-- MEM_RDWR: the one bus word the block refuses, by the fault the spec names (R206; 30_encoding R167). -/
def execMemRdwr (a : Addr) (s : State) : Host.Outcome State Fault Refusal :=
  .fault (.busReadWriteBoth (present s.params (.memRdwr a) s.pins))

end Sys2Proof.Machine
end

