-- ==== Sys2Proof/Machine/Dispatch.lean ====
section
/-! DEFINITION. The dispatch: one arm per row of the decode map. -/

namespace Sys2Proof.Machine

def exec (i : Instr) (s : State) : Host.Outcome State Fault Refusal :=
  match i with
  | .memNone => Sys2Proof.Machine.execMemNone s
  | .memRd a => Sys2Proof.Machine.execMemRd a s
  | .memWr a d => Sys2Proof.Machine.execMemWr a d s
  | .memNoacc _ => Sys2Proof.Machine.execMemNoacc s
  | .memRdwr a => Sys2Proof.Machine.execMemRdwr a s
  | .ctcCh0 d rd wr => Sys2Proof.Machine.execCtcCh0 d rd wr s
  | .ctcCh1 d rd wr => Sys2Proof.Machine.execCtcCh1 d rd wr s
  | .ctcCh2 d rd wr => Sys2Proof.Machine.execCtcCh2 d rd wr s
  | .ctcCh3 d rd wr => Sys2Proof.Machine.execCtcCh3 d rd wr s
  | .pio1DataA d rd wr => Sys2Proof.Machine.execPio1DataA d rd wr s
  | .pio1DataB d rd wr => Sys2Proof.Machine.execPio1DataB d rd wr s
  | .pio1CtrlA d rd wr => Sys2Proof.Machine.execPio1CtrlA d rd wr s
  | .pio1CtrlB d rd wr => Sys2Proof.Machine.execPio1CtrlB d rd wr s
  | .pio2DataA d rd wr => Sys2Proof.Machine.execPio2DataA d rd wr s
  | .pio2DataB d rd wr => Sys2Proof.Machine.execPio2DataB d rd wr s
  | .pio2CtrlA d rd wr => Sys2Proof.Machine.execPio2CtrlA d rd wr s
  | .pio2CtrlB d rd wr => Sys2Proof.Machine.execPio2CtrlB d rd wr s
  | .ioNone => Sys2Proof.Machine.execIoNone s
  | .ioUnmappedLo low d rd wr => Sys2Proof.Machine.execIoUnmappedLo low d rd wr s
  | .ioUnmappedHi low d rd wr => Sys2Proof.Machine.execIoUnmappedHi low d rd wr s
  | .ioUnmappedA0 low d rd wr => Sys2Proof.Machine.execIoUnmappedA0 low d rd wr s
  | .ioUnmapped98 low d rd wr => Sys2Proof.Machine.execIoUnmapped98 low d rd wr s
  | .inta a => Sys2Proof.Machine.execInta a s
  | .reti => Sys2Proof.Machine.execReti s

end Sys2Proof.Machine
end

