-- ==== Sys2Proof/Machine/Tick.lean ====
section
/-! DEFINITION. One clock cycle of the block (40_tick_engine R200), twice: `tick` runs the decoded rows through `exec`, and `tickWith`
is the sequence of R200's steps without the decode, for any collaborators. -/

namespace Sys2Proof.Machine

/-- Steps 2 to 5 on the state after step 1: the cycle's bus word is decoded once (30_encoding R161), its memory row runs (step 2), and
then the row of its peripheral phase, with the data then on the bus (steps 3 to 5; R208). -/
def runRows (s : State) : Host.Outcome State Fault Refusal :=
  andThen (exec (decodeMem s.pins) s) fun t => exec ((decodeBus s.params s.pins).withData (Bus.data t.pins)) t

/-- A Tick: the CPU gives the cycle's bus word (step 1), its rows run (steps 2 to 5), then the audio step and the blink step (R200).
The result's bus word is left in `pins` (R229). -/
def tick (s : State) : Host.Outcome State Fault Refusal :=
  andThen (runRows (cpuPhase s.params.chips s)) fun t => .next (blinkStep (audioStep s.params.chips t))

/-- Step 2 of R200, on the state after step 1. -/
def memPhase (s : State) : Host.Outcome State Fault Refusal :=
  if Bus.mreq s.pins then
    if Bus.rd s.pins && Bus.wr s.pins then .fault (.busReadWriteBoth s.pins)
    else if Bus.rd s.pins then .next { s with pins := Bus.setData (memRead s (Bus.addr s.pins)) s.pins }
    else if Bus.wr s.pins then .next (memWrite s (Bus.addr s.pins) (Bus.data s.pins))
    else .next s
  else .next s

/-- `Tick(s, s.pins)`, the steps of R200 in their order, with the free byte `ioPhase` leaves in an unanswered cycle (log entry 12). -/
def tickWith (C : Collaborators) (s : State) : Host.Outcome State Fault Refusal :=
  andThen (memPhase (cpuPhase C s)) fun s2 => .next (blinkStep (audioStep C (ioPhase C s2)))

/-- One pass of Execute's loop body: a Tick whose pins are stored, then the debug hook if there is one (43_execution_driver R352,
R356). -/
def cycle (draw : Nat → Bool) (s : State) : Host.Outcome State Fault Refusal :=
  andThen (tick s) fun t => .next (hookCall draw t)

/-- One clock cycle of a valid instance; an invalid one does not run (43_execution_driver R351). -/
def stepCycle (s : State) : Host.Outcome State Fault Refusal :=
  if s.valid then cycle Config.stoppedDraw s else .fault (.invalidInstance .execute)

/-- The state with a scripted CPU about to present the word `w` (30_encoding R171). -/
def withLine (s : State) (w : Pins) : State :=
  { s with cpu := .scripted { lines := [w], pos := 0, entry := cpuNextFetch s.cpu, seen := [] } }

end Sys2Proof.Machine
end

