-- ==== Sys2Proof/Machine/Step.lean ====
section
/-! DEFINITION. The machine's step: one clock cycle (00_scope R11, 40_tick_engine R200). -/

namespace Sys2Proof.Machine

/-- One clock cycle, with the debug hook Execute calls after it (43_execution_driver R352). -/
def step (s : State) : Host.Outcome State Fault Refusal := stepCycle s

/-- The bus word the next Tick decodes is the one its CPU presents: a scripted CPU whose next line is `w` (log entry 7). -/
def State.withFetchWord (s : State) (_nbits w : Nat) : State := withLine s (BitVec.ofNat 64 w)

end Sys2Proof.Machine
end

