-- ==== Sys2Proof/Machine/Init.lean ====
section
/-! DEFINITION. Init, Reset and Discard (70_reset_and_hazards R450 to R458) and the checks Init makes (R451; 00_scope R27; 20_memory
R103). A null argument is `none`. A fault leaves the instance the host holds as it was (log entry 20). -/

namespace Sys2Proof.Machine

/-- `MEMORY_MAP(variant)`. -/
def memoryMap (P : Params) (v : Variant) : List Binding :=
  match v with
  | .mono => P.mapMono
  | .color => P.mapColor

/-- `ROM_IMAGES(variant)`, the expected image sizes in list order. -/
def romImages (P : Params) (v : Variant) : List Nat :=
  match v with
  | .mono => P.romImagesMono
  | .color => P.romImagesColor

/-- `ROM_SIZE(variant)`, the sum of the image sizes (70_reset_and_hazards R450). -/
def romSize (P : Params) (v : Variant) : Nat := (romImages P v).foldl (· + ·) 0

/-- `FONT_SIZE` (00_scope R25). -/
def fontSize : Nat := 2048

/-- `FB_SIZE` (42_video_pipeline R308). -/
def fbSize : Nat := 98304

/-- The size of the block behind a binding. -/
def storeSize (P : Params) (v : Variant) (st : Store) : Nat :=
  match st with
  | .ram => P.ramSize
  | .rom => romSize P v

/-- Two bindings cover a common address. -/
def bindingsMeet (b c : Binding) : Bool := decide (b.base < c.base + c.size) && decide (c.base < b.base + b.size)

/-- No two bindings of one layer cover a common address (20_memory R103). -/
def layersDisjoint : List Binding → Bool
  | [] => true
  | b :: bs => (bs.all fun c => !(decide (b.layer = c.layer) && bindingsMeet b c)) && layersDisjoint bs

/-- The checks of 20_memory R103 on one binding: its range, its place in its block, and that ROM is read-only. -/
def bindingRangeOk (b : Binding) : Bool := decide (1 ≤ b.size) && decide (b.base + b.size ≤ 65536)
def bindingStoreOk (P : Params) (v : Variant) (b : Binding) : Bool := decide (b.offset + b.size ≤ storeSize P v b.store)
def bindingRomOk (b : Binding) : Bool := !(decide (b.store = .rom)) || b.readOnly

/-- A well-formed memory map (20_memory R103). -/
def mapWf (P : Params) (v : Variant) (m : List Binding) : Bool :=
  m.all bindingRangeOk && m.all (bindingStoreOk P v) && m.all bindingRomOk && layersDisjoint m

/-- The video blocks lie in the RAM block (00_scope R27). DESIGN CHOICE: the monochrome variant's attribute block is not checked, as R27
says, although R25's table bounds `RAM_SIZE` by both bases for either variant (log entry 31). -/
def videoBlocksOk (P : Params) (v : Variant) : Bool :=
  decide (P.vramBase + 960 ≤ P.ramSize) &&
    (match v with
      | .mono => true
      | .color => decide (P.aramBase + 960 ≤ P.ramSize))

/-- The cascade channels: the source is in 0..2 and the destination is the next channel (00_scope R27). -/
def cascadeOk (P : Params) : Bool := decide (P.cascadeSrc ≤ 2) && decide (P.cascadeDst = P.cascadeSrc + 1)

/-- The configured sample count after defaulting (10_state R69). -/
def audioCountOf (P : Params) (requested : Nat) : Nat := if requested = 0 then P.defaultAudioSamples else requested

/-- The checks of 00_scope R27 in the order it lists them, each with whether it passes. -/
def configChecks (P : Params) (v : Variant) (audioCount : Nat) : List (ConfigCheck × Bool) :=
  [ (.selects, decide P.SelectsDistinct),
    (.cascade, cascadeOk P),
    (.audioChannel, decide (P.audioCh ≤ 2)),
    (.videoBlocks, videoBlocksOk P v),
    (.clock, decide (25 ≤ P.clkHz)),
    (.bindingRange, (memoryMap P v).all bindingRangeOk),
    (.bindingStore, (memoryMap P v).all (bindingStoreOk P v)),
    (.romWritable, (memoryMap P v).all bindingRomOk),
    (.layerOverlap, layersDisjoint (memoryMap P v)),
    (.audioCount, decide (1 ≤ audioCount) && decide (audioCount ≤ P.maxAudioSamples)) ]

/-- A well-formed configuration (00_scope R27). -/
def configWf (P : Params) (v : Variant) (audioCount : Nat) : Bool := (configChecks P v audioCount).all fun c => c.2

/-- The first check that fails. -/
def failedCheck (P : Params) (v : Variant) (audioCount : Nat) : Option ConfigCheck :=
  ((configChecks P v audioCount).find? fun c => !c.2).map fun c => c.1

/-- A given list of ROM images has one missing: an absent entry, or fewer images than the variant has. -/
def romMissing (expected : List Nat) (images : List (Option (List Byte))) : Bool :=
  images.any (fun im => im.isNone) || decide (images.length < expected.length)

/-- The first ROM image, counted from `k`, whose size is not its entry's; an image past the list has no size it could have. Both are
DESIGN CHOICE (log entry 22). -/
def romMismatch : Nat → List Nat → List (Option (List Byte)) → Option Fault
  | _, _, [] => none
  | k, [], im :: _ => some (.romSizeMismatch (.rom k) 0 (im.getD []).length)
  | k, n :: ns, im :: ims =>
    if (im.getD []).length = n then romMismatch (k + 1) ns ims else some (.romSizeMismatch (.rom k) n (im.getD []).length)

/-- The font image's size check. -/
def fontMismatch (font : Option (List Byte)) : Option Fault :=
  if (font.getD []).length = fontSize then none else some (.romSizeMismatch .font fontSize (font.getD []).length)

/-- The checks of Init in the order of 70_reset_and_hazards R451; the first that fails gives its fault. DESIGN CHOICE: of several images of
a wrong size the fault records the first ROM image in list order, and the font only when every ROM image fits (log entry 22). -/
def initFault (cfg : InitConfig) : Option Fault :=
  if romMissing (romImages cfg.params cfg.variant) cfg.romImages || cfg.font.isNone then some (.nullArgument .init)
  else match romMismatch 0 (romImages cfg.params cfg.variant) cfg.romImages, fontMismatch cfg.font with
    | some f, _ => some f
    | none, some f => some f
    | none, none =>
      if cfg.params.maxAudioSamples < cfg.audioCount then some (.audioBufferOversize cfg.audioCount)
      else match failedCheck cfg.params cfg.variant (audioCountOf cfg.params cfg.audioCount) with
        | some c => some (.configIllFormed c)
        | none => none

/-- The bytes of the ROM block: the images' concatenation in list order (70_reset_and_hazards R450). -/
def romBytes (images : List (Option (List Byte))) : List Byte := images.flatMap fun im => im.getD []

/-- The configuration's fill of the RAM block (70_reset_and_hazards R453). DESIGN CHOICE: a list longer than the block is cut to it, and past
a shorter one the machine's own array stands (log entry 13). -/
def ramFill (cfg : InitConfig) : List Byte := cfg.initRam.take cfg.params.ramSize

/-- A zero configuration value falls back to its default (70_reset_and_hazards R452). -/
def orDefault (requested default : Nat) : Nat := if requested = 0 then default else requested

/-- The state Init builds (70_reset_and_hazards R452): every field of the spec's record is written and nothing of the old contents
survives but the model's own draw counter. -/
def initState (old : State) (cfg : InitConfig) : State where
  valid := true
  params := cfg.params
  variant := cfg.variant
  cpu := cpuSetEntry cfg.params.chips (cpuInit cfg.params.chips cfg.cpu) cfg.params.entryAddr
  pins := cfg.params.pinsInit.setWidth 64
  ctcCascade := false
  pio1 := cfg.params.chips.pioReset
  pio2 := cfg.params.chips.pioReset
  ctc := cfg.params.chips.ctcReset
  beeper := cfg.params.chips.beeperReset (orDefault cfg.audioRate Config.defaultSampleRate) (orDefault cfg.audioVolume Config.defaultVolume)
  kbd := cfg.params.chips.kbdInit
  map := memoryMap cfg.params cfg.variant
  ram := cellsOf ramBg (ramFill cfg)
  rom := cellsOf romBg (romBytes cfg.romImages)
  font := cellsOf fontBg (cfg.font.getD [])
  fb := []
  blinkCounter := 0#32
  blinkFF := 0#8
  audioBuf := []
  audioPos := 0
  audioN := audioCountOf cfg.params cfg.audioCount
  clkRem := 0
  hook := cfg.hook
  audioCfg :=
    { callback := cfg.audioCallback
      sampleRate := orDefault cfg.audioRate Config.defaultSampleRate
      volume := orDefault cfg.audioVolume Config.defaultVolume }
  events := []
  draws := old.draws + 1
  audioFill := old.draws

/-- `Init(s, cfg)`: it does not check `valid` (70_reset_and_hazards R451, R452). -/
def initOp (s : Option State) (cfg : Option InitConfig) : Host.Outcome State Fault Refusal :=
  match s, cfg with
  | some s, some cfg =>
    match initFault cfg with
    | some f => .fault f
    | none => .next (initState s cfg)
  | _, _ => .fault (.nullArgument .init)

/-- Every host operation but Init first checks the instance (43_execution_driver R351). -/
def checked {α : Type} (op : HostOp) (s : Option State) (f : State → Host.Outcome α Fault Refusal) :
    Host.Outcome α Fault Refusal :=
  match s with
  | none => .fault (.nullArgument op)
  | some s => if s.valid then f s else .fault (.invalidInstance op)

/-- What Reset does to a valid instance (70_reset_and_hazards R455). -/
def resetState (s : State) : State :=
  { s with
    cpu := cpuSetEntry s.params.chips (cpuReset s.params.chips s.cpu).1 s.params.entryAddr
    pins := Bus.mask (cpuReset s.params.chips s.cpu).2
    pio1 := s.params.chips.pioReset
    pio2 := s.params.chips.pioReset
    ctc := s.params.chips.ctcReset
    ctcCascade := false
    beeper := s.params.chips.beeperReset s.audioCfg.sampleRate s.audioCfg.volume }

/-- `Reset(s)` (70_reset_and_hazards R455). -/
def resetOp (s : Option State) : Host.Outcome State Fault Refusal := checked .reset s fun s => .next (resetState s)

/-- What Discard leaves: `valid` false, and every other field of the spec's record unspecified (70_reset_and_hazards R458). -/
def discardState (s : State) : State :=
  { Config.discarded s with valid := false, events := s.events, draws := s.draws }

/-- `Discard(s)` (70_reset_and_hazards R458). -/
def discardOp (s : Option State) : Host.Outcome State Fault Refusal := checked .discard s fun s => .next (discardState s)

end Sys2Proof.Machine
end

