-- ==== Sys2Proof/Machine/Video.lean ====
section
/-! DEFINITION. The video decode: character and attribute memory to a packed framebuffer (42_video_pipeline R300 to R314). -/

namespace Sys2Proof.Machine

/-- The character code of the cell at text row `r`, column `c` (R301). -/
def charCode (s : State) (r c : Nat) : Byte := cellRead ramBg s.ram (s.params.vramBase + 40 * r + c)

/-- The attribute byte of the cell (R301). -/
def attrByte (s : State) (r c : Nat) : Byte := cellRead ramBg s.ram (s.params.aramBase + 40 * r + c)

/-- The 8-pixel pattern of character `ch` at scanline `py` (R302). -/
def glyphRow (s : State) (ch : Byte) (py : Nat) : Byte := cellRead fontBg s.font (8 * ch.toNat + py)

/-- The foreground field of an attribute byte, bits 6..4 (30_encoding R158). -/
def attrFg (at8 : Byte) : BitVec 3 := at8.extractLsb' 4 3

/-- The background field, bits 2..0 (30_encoding R158). -/
def attrBg (at8 : Byte) : BitVec 3 := at8.extractLsb' 0 3

/-- The blink bit, bit 7 (30_encoding R158). -/
def attrBlink (at8 : Byte) : Bool := at8.getLsbD 7

/-- The foreground and background an attribute byte gives, swapped while it blinks and the blink bit is set (R303, R304). -/
def attrColours (blinkOn : Bool) (at8 : Byte) : BitVec 3 × BitVec 3 :=
  if attrBlink at8 && blinkOn then (attrBg at8, attrFg at8) else (attrFg at8, attrBg at8)

/-- The foreground and background of a cell (R303, R304; R306 for the monochrome variant). -/
def cellColours (s : State) (r c : Nat) : BitVec 3 × BitVec 3 :=
  match s.variant with
  | .color => attrColours (blinkBit s.blinkFF) (attrByte s r c)
  | .mono => (s.params.monoFg, s.params.monoBg)

/-- Pixel `k` of a pattern, 0 the leftmost: bit 7 - k selects the foreground or the background (R305). -/
def expandPixel (px8 : Byte) (colours : BitVec 3 × BitVec 3) (k : Nat) : Byte :=
  (if px8.getLsbD (7 - k) then colours.1 else colours.2).setWidth 8

/-- The pixel of cell (r, c) at scanline `py`, pixel column `k` (R307). -/
def pixelAt (s : State) (r py c k : Nat) : Byte :=
  expandPixel (glyphRow s (charCode s r c) py) (cellColours s r c) k

/-- The framebuffer byte of that pixel (R307, R308). -/
def pixelIndex (r py c k : Nat) : Nat := 512 * (8 * r + py) + 8 * c + k

/-- The pixels of a decode in the order of R307: text row, scanline, column, pixel. -/
def pixelWrites (s : State) : List (Nat × Byte) :=
  (List.range 24).flatMap fun r =>
    (List.range 8).flatMap fun py =>
      (List.range 40).flatMap fun c =>
        (List.range 8).map fun k => (pixelIndex r py c k, pixelAt s r py c k)

/-- The framebuffer a decode leaves. -/
def decodedFb (s : State) : List Host.Cell := cellWriteAll fbBg s.fb (pixelWrites s)

/-- The state with a framebuffer. -/
def withFb (s : State) (fb : List Host.Cell) : State := { s with fb := fb }

/-- `VideoDecode(s)` (R307): it writes the framebuffer's visible positions and nothing else. -/
def videoDecode (s : State) : State := withFb s (decodedFb s)

/-- The byte of the framebuffer at an offset, as the host reads it. -/
def fbRead (s : State) (i : Nat) : Byte := cellRead fbBg s.fb i

/-- The display metadata under some parameters, with the framebuffer of an instance if there is one (43_execution_driver R361). -/
def displayMetadata (P : Params) (buffer : Option (List Host.Cell)) : DisplayInfo :=
  { width := 320, height := 192, stride := 512, bytesPerPixel := 1, fbSize := 98304
    palette := P.palette.toList, buffer := buffer }

end Sys2Proof.Machine
end

