-- ==== Sys2Proof/Machine/Driver.lean ====
section
/-! DEFINITION. The execution driver and the other host operations (43_execution_driver R350 to R364). `draw` gives the host's value of
`Stopped` after a hook call (R356); the machine's own is `Config.stoppedDraw`. -/

namespace Sys2Proof.Machine

/-- The accumulated millionths of a cycle of a call (43_execution_driver R353). -/
def cycleTotal (s : State) (us : Nat) : Nat := s.clkRem + us * s.params.clkHz

/-- The number of Ticks of a call (R353). -/
def cyclesOf (s : State) (us : Nat) : Nat := cycleTotal s us / 1000000

/-- The loop of Execute (R352): `i` Ticks are done and at most `k` more run; it ends early when the hook's flag is true. -/
def runCycles (draw : Nat → Bool) : Nat → Nat → State → Host.Outcome (State × Nat) Fault Refusal
  | 0, i, s => .next (s, i)
  | k + 1, i, s =>
    if hookStopped s then .next (s, i)
    else andThen (cycle draw s) fun t => runCycles draw k (i + 1) t

/-- After the loop: the keyboard ages by the requested duration (R354), then the video decode runs once (R355). -/
def endSlice (us : Nat) (s : State) : State := videoDecode { s with kbd := s.params.chips.kbdUpdate s.kbd us }

/-- `Execute(s, us)` on a valid instance: the state and the number of Ticks performed (R352, R358). -/
def executeState (draw : Nat → Bool) (us : Nat) (s : State) : Host.Outcome (State × Nat) Fault Refusal :=
  andThen (runCycles draw (cyclesOf s us) 0 { s with clkRem := cycleTotal s us % 1000000 }) fun r => .next (endSlice us r.1, r.2)

/-- `Execute(s, us)` (R352). -/
def execute (draw : Nat → Bool) (s : Option State) (us : Nat) : Host.Outcome (State × Nat) Fault Refusal :=
  checked .execute s (executeState draw us)

/-- A sequence of Execute calls on a valid instance: the state after them and the number of Ticks in all (R353). -/
def executeMany (draw : Nat → Bool) : List Nat → State → Host.Outcome (State × Nat) Fault Refusal
  | [], s => .next (s, 0)
  | us :: rest, s =>
    andThen (executeState draw us s) fun r => andThen (executeMany draw rest r.1) fun q => .next (q.1, r.2 + q.2)

/-- `KeyDown(key)` changes the keyboard only (R362). -/
def keyDown (s : Option State) (key : Nat) : Host.Outcome State Fault Refusal :=
  checked .keyDown s fun s => .next { s with kbd := s.params.chips.kbdKeyDown s.kbd key }

/-- `KeyUp(key)` changes the keyboard only (R362). -/
def keyUp (s : Option State) (key : Nat) : Host.Outcome State Fault Refusal :=
  checked .keyUp s fun s => .next { s with kbd := s.params.chips.kbdKeyUp s.kbd key }

/-- The host sets its own Stopped flag between slices (R356). -/
def setStopped (b : Bool) (s : State) : State := { s with hook := s.hook.map fun h => { h with stopped := b } }

/-- A sequence of memory writes through the memory map, in order (20_memory R113). -/
def memWriteAll (s : State) : List (Addr × Byte) → State
  | [] => s
  | (a, v) :: ws => memWriteAll (memWrite s a v) ws

/-- An accepted load: its writes, then its entry address if it has one (43_execution_driver R363). -/
def loadState (img : LoadImage) (s : State) : State :=
  match img.entry with
  | none => memWriteAll s img.writes
  | some a => { memWriteAll s img.writes with cpu := cpuSetEntry s.params.chips s.cpu a }

/-- An operation on an argument the Loader or the snapshot codec judges: the instance is checked first (43_execution_driver R351), then a null
argument faults (60_exceptions R401); a rejected one changes nothing and is no fault (R402), and an accepted one has its effect (R363). -/
def checkedOffer {α : Type} (op : HostOp) (s : Option State) (arg : Option (Offered α)) (effect : α → State → State) :
    Host.Outcome (State × Bool) Fault Refusal :=
  checked op s fun s =>
    match arg with
    | none => .fault (.nullArgument op)
    | some .rejected => .next (s, false)
    | some (.accepted a) => .next (effect a s, true)

/-- `Quickload`: the Loader is outside the block, and hands it an image accepted or rejected (R363; log entry 23). -/
def quickload (s : Option State) (img : Option (Offered LoadImage)) : Host.Outcome (State × Bool) Fault Refusal :=
  checkedOffer .quickload s img loadState

/-- `SaveSnapshot` reads the whole state (43_execution_driver R363). -/
def saveSnapshot (s : Option State) : Host.Outcome State Fault Refusal := checked .saveSnapshot s fun s => .next s

/-- The state an accepted snapshot load leaves: the saved one, with the live host's callbacks and hook (95_test_vectors S5), and the
model's own record of what the host has seen and drawn so far. A load leaves the instance's mode alone (60_exceptions R421). DESIGN CHOICE:
the OPEN parameters and the collaborators, which are no field of 10_state R50's record, are the saved state's (log entry 23). -/
def restoredState (s t : State) : State :=
  { t with
    valid := s.valid, hook := s.hook, audioCfg := { t.audioCfg with callback := s.audioCfg.callback }
    events := s.events, draws := max s.draws t.draws }

/-- `LoadSnapshot`: an accepted snapshot replaces the whole state at once, but for the live host's callbacks (R363; log entry 23). -/
def loadSnapshot (s : Option State) (snap : Option (Offered State)) : Host.Outcome (State × Bool) Fault Refusal :=
  checkedOffer .loadSnapshot s snap fun t s => restoredState s t

/-- `DisplayInfo(s)`: with no instance, the metadata and a null framebuffer (43_execution_driver R361). `P` holds the palette of a call
without an instance, which brings no parameters of its own (log entry 24). -/
def displayInfo (P : Params) (s : Option State) : Host.Outcome DisplayInfo Fault Refusal :=
  match s with
  | none => .next (displayMetadata P none)
  | some s => if s.valid then .next (displayMetadata s.params (some s.fb)) else .fault (.invalidInstance .displayInfo)

end Sys2Proof.Machine
end

