-- ==== Sys2Proof/Machine/Script.lean ====
section
/-! DEFINITION. The bus-script notation (30_encoding R171, R172): the bus words each line stands for. -/

namespace Sys2Proof.Machine

/-- The bit of a signal (30_encoding R150). -/
def signalBit : Signal → Nat
  | .m1 => 24 | .mreq => 25 | .iorq => 26 | .rd => 27 | .wr => 28 | .halt => 29 | .int => 30 | .res => 31
  | .nmi => 32 | .wait => 33 | .rfsh => 34 | .ieio => 37 | .reti => 38

/-- A port as the address field: the high byte, then the port. -/
def portAddr (p h : Byte) : Addr := h ++ p

def wordMrd (a : Addr) : Pins := 0x0A000000#64 ||| a.setWidth 64
def wordMwr (a : Addr) (d : Byte) : Pins := 0x12000000#64 ||| (d.setWidth 64 <<< 16) ||| a.setWidth 64
def wordIord (p h : Byte) : Pins := 0x0C000000#64 ||| (portAddr p h).setWidth 64
def wordIowr (p h d : Byte) : Pins := 0x14000000#64 ||| (d.setWidth 64 <<< 16) ||| (portAddr p h).setWidth 64

/-- The bus words of a line, one a Tick (R171, R172). DESIGN CHOICE: a signal added to a pseudo-line is in every word it expands to, and
the addresses of `MRD*` wrap at 65536 as R172 says those of `FILL` do (log entry 33). -/
def scriptWords : ScriptLine → List Pins
  | .idle => [0#64]
  | .mrd a => [wordMrd a]
  | .mfetch a => [0x0B000000#64 ||| a.setWidth 64]
  | .mwr a d => [wordMwr a d]
  | .refresh a => [0x402000000#64 ||| a.setWidth 64]
  | .iord p h => [wordIord p h]
  | .iowr p h d => [wordIowr p h d]
  | .inta a => [0x05000000#64 ||| a.setWidth 64]
  | .reti => [0x4000000000#64]
  | .plus line sig => (scriptWords line).map (Bus.setBit (signalBit sig) true)
  | .idles n => List.replicate n 0#64
  | .fill a n d => (List.range n).map fun i => wordMwr (a + BitVec.ofNat 16 i) d
  | .mrds a n => (List.range n).map fun i => wordMrd (a + BitVec.ofNat 16 i)

/-- A whole script. -/
def scriptOf (ls : List ScriptLine) : List Pins := ls.flatMap scriptWords

end Sys2Proof.Machine
end

