-- ==== Sys2Proof/Safety.lean ====
section
/-! DEFINITION. What a state the block can be in looks like, and which bus words the CPU contract allows. -/

namespace Sys2Proof.Machine

/-- Every block of cells is in canonical form: RAM, ROM, font, framebuffer, audio buffer. -/
def memoriesWf (s : State) : Bool :=
  cellsWf ramBg s.ram && cellsWf romBg s.rom && cellsWf fontBg s.font && cellsWf fbBg s.fb
    && cellsWf (Config.audioUndef s.audioFill) s.audioBuf

/-- Every block of cells has its size: nothing lies outside RAM, ROM, font, framebuffer, or at an audio entry the fill has not
reached. -/
def memoriesSized (s : State) : Bool :=
  cellsBelow s.params.ramSize s.ram && cellsBelow (romSize s.params s.variant) s.rom && cellsBelow fontSize s.font
    && cellsBelow fbSize s.fb && cellsBelow s.audioPos s.audioBuf

/-- The invariant of a valid instance between operations: the configuration is well formed and its map is the variant's (00_scope
R27, 20_memory R106), every memory is canonical and of its size, only canonical pins are stored (10_state R54), the audio position
is inside the configured count (10_state R68), the remainder is below a cycle (R70), the blink counter does not exceed its reload
value and bits 6..0 of the blink flip-flop hold their Init value 0 (R66; 40_tick_engine R226). -/
structure Inv (s : State) : Prop where
  valid : s.valid = true
  config : configWf s.params s.variant s.audioN = true
  map : s.map = memoryMap s.params s.variant
  cellsForm : memoriesWf s = true
  cellsSize : memoriesSized s = true
  pins : Bus.Canonical s.pins
  audioPos : s.audioPos < s.audioN
  clkRem : s.clkRem < 1000000
  blinkCounter : s.blinkCounter ≤ blinkReload s.params
  blinkFF : s.blinkFF &&& 0x7F#8 = 0#8

/-- The CPU contract's bus word: never a read and a write in one memory cycle (00_scope R16). -/
def cpuWordLegal (p : Pins) : Bool := !(Bus.mreq p && Bus.rd p && Bus.wr p)

/-- The bus word the next cycle of a state decodes. -/
def nextWord (s : State) : Pins := (cpuPhase s.params.chips s).pins

/-- The next cycle runs: the instance is valid and its CPU keeps the contract. -/
def Runs (s : State) : Prop := s.valid = true ∧ cpuWordLegal (nextWord s) = true

/-- What 60_exceptions R414 assumes of the peripherals in an acknowledge cycle: a device that drives the data field has its enable
input 1 and leaves its enable output 0. -/
structure AckContract (C : Collaborators) : Prop where
  pio : ∀ st p, Bus.isInta p = true → (C.pioTick st p).data.isSome = true → Bus.ieio p = true ∧ (C.pioTick st p).ieo = false
  ctc : ∀ st p, Bus.isInta p = true → (C.ctcTick st p).data.isSome = true → Bus.ieio p = true ∧ (C.ctcTick st p).ieo = false

/-- What the peripheral phase of `s` leaves on the bus, by whether the data field floats: the chain's word, with a free byte of its own if
it does. -/
def LeavesBus (s t : State) (floats : Bool) : Prop :=
  t.pins = (if floats then Bus.setData (Config.freeByte s.draws) (chainStages s.params.chips s).pins
    else (chainStages s.params.chips s).pins) ∧
  t.draws = if floats then s.draws + 1 else s.draws

/-- Exactly `n` Ticks, one after another, without the debug hook. -/
def ticks : Nat → State → Host.Outcome State Fault Refusal
  | 0, s => .next s
  | n + 1, s => andThen (tick s) (ticks n)

/-- The bus word the counter/timer is ticked with, in the cycle of a state before step 3. -/
def ctcWord (C : Collaborators) (s : State) : Pins := ctcInput (pio2Stage C (pio1Stage C s))

/-- The bus word I/O controller #2 is ticked with, in the cycle of a state before step 3. -/
def pio2Word (C : Collaborators) (s : State) : Pins := pio2Input C (pio1Stage C s)

end Sys2Proof.Machine
end

