-- ==== Sys2Proof/Certificates/Slice0/Obligations.lean ====
section
/-! DEFINITION. The statements about the model. Each docstring names the rule of spec/ it formalises; a statement about every state
holds for every value of the OPEN parameters, which a state carries. -/

open Sys2Proof Sys2Proof.Machine

/-! ### Decoding -/

/-- Presenting any well-formed row on any bus word, and decoding that word, gives the row back in its own group: no operand bit of
any row is lost and no row is read as a neighbour. -/
def Obligations.DecodeOfPresentedRowIsTheRow : Prop :=
  ∀ (P : Params) (i : Instr) (p : Pins), P.SelectsDistinct → i.wellFormed P = true →
    (decode P (present P i p)).rowLike i = some i

/-- The same of the encoder, whose words are canonical and hold 0 in every signal that neither the row's pattern nor its operands fix: a
signal that is 1 in the encoded word is 1 in whatever word the row is laid over. -/
def Obligations.DecodeOfEncodeIsTheRow : Prop :=
  ∀ (P : Params) (i : Instr), P.SelectsDistinct → i.wellFormed P = true →
    (decode P (encode P i)).rowLike i = some i ∧ Bus.Canonical (encode P i) ∧
    ∀ (n : Nat) (p : Pins), Bus.bit n (encode P i) = true → Bus.bit n (present P i p) = true

/-- Every row a word decodes to, in each of the groups, is well formed, and presenting it on that word changes nothing: decoding drops no
operand. A word that is an acknowledge and holds RETI besides has both rows. -/
def Obligations.DecodedRowsStandOnTheirWord : Prop :=
  ∀ (P : Params) (p : Pins),
    (decodeMem p).wellFormed P = true ∧ present P (decodeMem p) p = p ∧
    (decodeIo P p).wellFormed P = true ∧ present P (decodeIo P p) p = p ∧
    (∀ i, decodeAck p = some i → i.wellFormed P = true ∧ present P i p = p) ∧
    (∀ i, decodeSig p = some i → i.wellFormed P = true ∧ present P i p = p) ∧
    (decodeBus P p).wellFormed P = true ∧ present P (decodeBus P p) p = p

/-- A word matches the table's pattern of each row it decodes to, and a row of the table a word matches is the row it decodes to in
that row's group (30_encoding R161 to R166), under the reference selects the table is written for, whose values are the model's
(log entry 2). -/
def Obligations.DecodeAgreesWithTheTable : Prop :=
  ∀ p : Pins,
    MatchesRow p (decodeMem p) ∧ MatchesRow p (decodeIo referenceParams p) ∧
    (∀ i, decodeAck p = some i → MatchesRow p i) ∧ (∀ i, decodeSig p = some i → MatchesRow p i) ∧
    ∀ i, MatchesRow p i → ∃ j, (decode referenceParams p).rowLike i = some j ∧ tableRow j = tableRow i

/-- Words written out from 30_encoding R162 to R166 and R171 decode to the rows they stand for, under the reference selects, whose
values are the model's (log entry 2). That `decodeTableWord` names one of the rows a word matches, and which, is the model's choice (log
entry 10). -/
def Obligations.WrittenOutWordsDecode : Prop :=
  decodeTableWord 32 0x0A001234 = some (.memRd 0x1234#16) ∧
  decodeTableWord 32 0x125A1000 = some (.memWr 0x1000#16 0x5A#8) ∧
  decodeTableWord 40 0x402000042 = some (.memNoacc 0x0042#16) ∧
  decodeTableWord 32 0x14010080 = some (.ctcCh0 0x01#8 false true) ∧
  decodeTableWord 32 0x14CF008E = some (.pio1CtrlA 0xCF#8 false true) ∧
  decodeTableWord 32 0x0C001295 = some (.pio2DataB 0x00#8 true false) ∧
  decodeTableWord 32 0x0C000098 = some (.ioUnmapped98 3#2 0x00#8 true false) ∧
  decodeTableWord 32 0x05000088 = some (.inta 0x0088#16) ∧
  decodeTableWord 40 0x4000000000 = some .reti

/-- Every row of the I/O, acknowledge and RETI groups that a state's word matches has the same effect on that state, so the step's
choice of row decides nothing (30_encoding R161; log entry 8). -/
def Obligations.MatchingPeripheralRowsAgree : Prop :=
  ∀ (s : State) (i : Instr),
    (i = decodeIo s.params s.pins ∨ decodeAck s.pins = some i ∨ decodeSig s.pins = some i) →
      exec i s = .next (ioPhase s.params.chips s)

/-! ### The memory group -/

/-- MEM_NONE and MEM_NOACC (40_tick_engine R207): their decode, and that neither changes a pin or the state. A refresh is a
MEM_NOACC. -/
def Obligations.NoAccessRowsChangeNothing : Prop :=
  (∀ s : State, Bus.mreq s.pins = false → decodeMem s.pins = .memNone) ∧
  (∀ s : State, Bus.mreq s.pins = true → Bus.rd s.pins = false → Bus.wr s.pins = false →
    decodeMem s.pins = .memNoacc (Bus.addr s.pins)) ∧
  (∀ s : State, exec .memNone s = .next s) ∧
  (∀ (s : State) (a : Addr), exec (.memNoacc a) s = .next s)

/-- MEM_RD (40_tick_engine R204): the data field becomes the byte the map serves, every other pin and all of the state stays. -/
def Obligations.MemRdPutsTheMappedByteOnTheBus : Prop :=
  ∀ (s : State) (a : Addr), ∃ t, exec (.memRd a) s = .next t ∧ t = { s with pins := t.pins } ∧
    Bus.data t.pins = memRead s a ∧ (∀ n, n < 64 → n < 16 ∨ 24 ≤ n → Bus.bit n t.pins = Bus.bit n s.pins)

/-- The address decoder and MemRead (20_memory R104, R110): under a well-formed map the binding of the highest layer among those
that cover the address serves it, and an address none covers reads the parameter's byte. -/
def Obligations.MemReadServesTheTopBinding : Prop :=
  ∀ (s : State) (a : Addr), mapWf s.params s.variant s.map = true →
    (∀ b ∈ s.map, Binding.coversAddr b a.toNat = true →
      (∀ c ∈ s.map, Binding.coversAddr c a.toNat = true → c.layer ≤ b.layer) →
      memRead s a = match b.store with
        | .ram => cellRead ramBg s.ram (b.offset + (a.toNat - b.base))
        | .rom => cellRead romBg s.rom (b.offset + (a.toNat - b.base))) ∧
    ((∀ b ∈ s.map, Binding.coversAddr b a.toNat = false) → memRead s a = s.params.unmappedRead)

/-- MEM_WR (40_tick_engine R205, 20_memory R112): one byte of the RAM block changes, the one behind the top binding; every other
byte of RAM, and all the rest of the state, pins included, stays. -/
def Obligations.MemWrStoresOneRamByte : Prop :=
  ∀ (s : State) (a : Addr) (d : Byte), cellsWf ramBg s.ram = true → mapWf s.params s.variant s.map = true →
    ∀ b ∈ s.map, Binding.coversAddr b a.toNat = true →
      (∀ c ∈ s.map, Binding.coversAddr c a.toNat = true → c.layer ≤ b.layer) → b.readOnly = false →
      ∃ t, exec (.memWr a d) s = .next t ∧ t = { s with ram := t.ram } ∧
        cellRead ramBg t.ram (b.offset + (a.toNat - b.base)) = d ∧
        ∀ k, k ≠ b.offset + (a.toNat - b.base) → cellRead ramBg t.ram k = cellRead ramBg s.ram k

/-- A write whose top binding is read-only is absorbed, and a write no binding covers is discarded: nothing changes
(20_memory R112, R113). -/
def Obligations.AbsorbedWritesChangeNothing : Prop :=
  ∀ (s : State) (a : Addr) (d : Byte), mapWf s.params s.variant s.map = true →
    (∀ b ∈ s.map, Binding.coversAddr b a.toNat = true →
      (∀ c ∈ s.map, Binding.coversAddr c a.toNat = true → c.layer ≤ b.layer) → b.readOnly = true →
      exec (.memWr a d) s = .next s) ∧
    ((∀ b ∈ s.map, Binding.coversAddr b a.toNat = false) → exec (.memWr a d) s = .next s)

/-- What a CPU read of any address gives after a write: the byte written, at every address that aliases the RAM byte stored to, and
what it gave before at every other (20_memory R111, R112, R114, R126). `memWriteIndex` computes the byte stored to. -/
def Obligations.ReadAfterWriteThroughTheMap : Prop :=
  ∀ (s : State) (a : Addr) (d : Byte), cellsWf ramBg s.ram = true → mapWf s.params s.variant s.map = true →
    ∃ t, exec (.memWr a d) s = .next t ∧
      ∀ a' : Addr, memRead t a' =
        match topBinding s.map a'.toNat with
        | none => memRead s a'
        | some b =>
          if b.store = .ram ∧ memWriteIndex s a = some (Binding.indexOf b a'.toNat) then d else memRead s a'

/-- MEM_RDWR (40_tick_engine R206): its decode, the fault with the cycle's bus word, and that the whole Tick ends in that fault.
The recorded word and the code are those of 60_exceptions R401 (log entry 27). -/
def Obligations.ReadAndWriteTogetherFaults : Prop :=
  (∀ s : State, Bus.mreq s.pins = true → Bus.rd s.pins = true → Bus.wr s.pins = true →
    decodeMem s.pins = .memRdwr (Bus.addr s.pins) ∧
    exec (decodeMem s.pins) s = .fault (.busReadWriteBoth s.pins)) ∧
  (∀ (s : State) (a : Addr), ∃ w, exec (.memRdwr a) s = .fault (.busReadWriteBoth w) ∧ cpuWordLegal w = false) ∧
  (∀ s : State, Bus.mreq (nextWord s) = true → Bus.rd (nextWord s) = true → Bus.wr (nextWord s) = true →
    tick s = .fault (.busReadWriteBoth (nextWord s))) ∧
  ∀ w, (Fault.busReadWriteBoth w).code = 6

/-! ### The I/O group -/

/-- The counter/timer rows (41_io_daisy_chain R275 to R278): the row completes; the counter/timer alone sees its chip enable, with the row's
channel on CS1 CS0; and it is ticked once, with the row's strobes, and with the row's data unless an earlier device answered an acknowledge.
An acknowledge that no device answers leaves the data field a free byte (60_exceptions R414). That a read which no device answers does so
too, that a cycle with RD and WR at once counts as a read, and that a device which is not selected but answers is obeyed, are the model's
choices, of which 41_io_daisy_chain R254 says nothing (92_eei_decisions D40 names no port; log entry 12). -/
def Obligations.CtcRowsSelectTheirChannel : Prop :=
  ∀ (s : State) (d : Byte) (rd wr : Bool), s.params.SelectsDistinct → Bus.Canonical s.pins →
    ∀ row ∈ [(Instr.ctcCh0 d rd wr, false, false), (.ctcCh1 d rd wr, true, false), (.ctcCh2 d rd wr, false, true),
        (.ctcCh3 d rd wr, true, true)],
      ∃ t, exec row.1 s = .next t ∧
        t.ctc = (s.params.chips.ctcTick s.ctc (ctcWord s.params.chips (presentRow row.1 s))).state ∧
        Bus.ce (ctcWord s.params.chips (presentRow row.1 s)) = true ∧
        Bus.cs0 (ctcWord s.params.chips (presentRow row.1 s)) = row.2.1 ∧
        Bus.cs1 (ctcWord s.params.chips (presentRow row.1 s)) = row.2.2 ∧
        Bus.rd (ctcWord s.params.chips (presentRow row.1 s)) = rd ∧
        Bus.wr (ctcWord s.params.chips (presentRow row.1 s)) = wr ∧
        Bus.data (ctcWord s.params.chips (presentRow row.1 s)) =
          (pioData (s.params.chips.pioTick s.pio2 (pio2Word s.params.chips (presentRow row.1 s))) (pio2Word s.params.chips (presentRow row.1 s))).getD
            ((pioData (s.params.chips.pioTick s.pio1 (pio1Input (presentRow row.1 s))) (pio1Input (presentRow row.1 s))).getD d) ∧
        (Bus.m1 s.pins = false → Bus.data (ctcWord s.params.chips (presentRow row.1 s)) = d) ∧
        Bus.ce (pio1Input (presentRow row.1 s)) = false ∧ Bus.ce (pio2Word s.params.chips (presentRow row.1 s)) = false ∧
        LeavesBus (presentRow row.1 s) t ((rd || Bus.m1 s.pins) && !dataAnswered s.params.chips (presentRow row.1 s))

/-- The rows of I/O controller #1 (41_io_daisy_chain R265 to R268): the row completes; controller #1 alone sees its chip enable, with the
port on BASEL, the register kind on CDSEL, the row's data and strobes, and its enable input 1. An acknowledge that no device answers leaves
the data field a free byte (60_exceptions R414). That a read which no device answers does so too, that a cycle with RD and WR at once counts
as a read, and that a device which is not selected but answers is obeyed, are the model's choices, of which 41_io_daisy_chain R254 says
nothing (92_eei_decisions D40 names no port; log entry 12). -/
def Obligations.Pio1RowsSelectTheirRegister : Prop :=
  ∀ (s : State) (d : Byte) (rd wr : Bool), s.params.SelectsDistinct → Bus.Canonical s.pins →
    ∀ row ∈ [(Instr.pio1DataA d rd wr, false, false), (.pio1DataB d rd wr, true, false), (.pio1CtrlA d rd wr, false, true),
        (.pio1CtrlB d rd wr, true, true)],
      ∃ t, exec row.1 s = .next t ∧
        t.pio1 = (s.params.chips.pioTick s.pio1 (pio1Input (presentRow row.1 s))).state ∧
        Bus.ce (pio1Input (presentRow row.1 s)) = true ∧
        Bus.basel (pio1Input (presentRow row.1 s)) = row.2.1 ∧ Bus.cdsel (pio1Input (presentRow row.1 s)) = row.2.2 ∧
        Bus.data (pio1Input (presentRow row.1 s)) = d ∧ Bus.rd (pio1Input (presentRow row.1 s)) = rd ∧
        Bus.wr (pio1Input (presentRow row.1 s)) = wr ∧ Bus.ieio (pio1Input (presentRow row.1 s)) = true ∧
        Bus.ce (pio2Word s.params.chips (presentRow row.1 s)) = false ∧ Bus.ce (ctcWord s.params.chips (presentRow row.1 s)) = false ∧
        LeavesBus (presentRow row.1 s) t ((rd || Bus.m1 s.pins) && !dataAnswered s.params.chips (presentRow row.1 s))

/-- The rows of I/O controller #2 (41_io_daisy_chain R272, R273): the row completes; controller #2 alone sees its chip enable, with the port
on BASEL, the register kind on CDSEL, the row's strobes, the row's data unless controller #1 answered an acknowledge, and the complemented
keyboard scan on its ports. An acknowledge that no device answers leaves the data field a free byte (60_exceptions R414). That a read which
no device answers does so too, that a cycle with RD and WR at once counts as a read, and that a device which is not selected but answers is
obeyed, are the model's choices, of which 41_io_daisy_chain R254 says nothing (92_eei_decisions D40 names no port; log entry 12). -/
def Obligations.Pio2RowsSelectTheirRegister : Prop :=
  ∀ (s : State) (d : Byte) (rd wr : Bool), s.params.SelectsDistinct → Bus.Canonical s.pins →
    ∀ row ∈ [(Instr.pio2DataA d rd wr, false, false), (.pio2DataB d rd wr, true, false), (.pio2CtrlA d rd wr, false, true),
        (.pio2CtrlB d rd wr, true, true)],
      ∃ t, exec row.1 s = .next t ∧
        t.pio2 = (s.params.chips.pioTick s.pio2 (pio2Word s.params.chips (presentRow row.1 s))).state ∧
        Bus.ce (pio2Word s.params.chips (presentRow row.1 s)) = true ∧
        Bus.basel (pio2Word s.params.chips (presentRow row.1 s)) = row.2.1 ∧
        Bus.cdsel (pio2Word s.params.chips (presentRow row.1 s)) = row.2.2 ∧
        Bus.rd (pio2Word s.params.chips (presentRow row.1 s)) = rd ∧ Bus.wr (pio2Word s.params.chips (presentRow row.1 s)) = wr ∧
        Bus.data (pio2Word s.params.chips (presentRow row.1 s)) =
          (pioData (s.params.chips.pioTick s.pio1 (pio1Input (presentRow row.1 s))) (pio1Input (presentRow row.1 s))).getD d ∧
        (Bus.m1 s.pins = false → Bus.data (pio2Word s.params.chips (presentRow row.1 s)) = d) ∧
        Bus.portA (pio2Word s.params.chips (presentRow row.1 s)) = ~~~ s.params.chips.kbdScanColumns s.kbd ∧
        Bus.portB (pio2Word s.params.chips (presentRow row.1 s)) = ~~~ s.params.chips.kbdScanLines s.kbd ∧
        Bus.ce (pio1Input (presentRow row.1 s)) = false ∧ Bus.ce (ctcWord s.params.chips (presentRow row.1 s)) = false ∧
        LeavesBus (presentRow row.1 s) t ((rd || Bus.m1 s.pins) && !dataAnswered s.params.chips (presentRow row.1 s))

/-- IO_NONE (41_io_daisy_chain R252): the row completes; no stage asserts CE, and all three devices are ticked. -/
def Obligations.IoNoneTicksEveryDeviceUnselected : Prop :=
  ∀ s : State, Bus.Canonical s.pins → ∃ t, exec .ioNone s = .next t ∧
    Bus.ce (pio1Input (presentRow .ioNone s)) = false ∧ Bus.ce (pio2Word s.params.chips (presentRow .ioNone s)) = false ∧
    Bus.ce (ctcWord s.params.chips (presentRow .ioNone s)) = false ∧
    t.pio1 = (s.params.chips.pioTick s.pio1 (pio1Input (presentRow .ioNone s))).state ∧
    t.pio2 = (s.params.chips.pioTick s.pio2 (pio2Word s.params.chips (presentRow .ioNone s))).state ∧
    t.ctc = (s.params.chips.ctcTick s.ctc (ctcWord s.params.chips (presentRow .ioNone s))).state

/-- IO_UNMAPPED, its four rows (41_io_daisy_chain R280): the row completes; no stage asserts CE; all devices are ticked; a read that
no device answers leaves the data field a free byte (any byte: `Config.freeByte` has no value to rely on); a write that is no
acknowledge leaves the pins as the stages leave them, and the block's memory as it was. That a cycle with RD and WR at once counts as a
read, and that a device which answers a read of an unmapped port is obeyed, are the model's choices, of which R280 says nothing (log entry
12). An acknowledge without RD at such a port has the statement about INTA. -/
def Obligations.UnmappedPortsSelectNobody : Prop :=
  ∀ (s : State) (lo : BitVec 4) (hi : BitVec 3) (l2 : BitVec 2) (d : Byte) (rd wr : Bool), Bus.Canonical s.pins →
    ∀ i ∈ [Instr.ioUnmappedLo lo d rd wr, .ioUnmappedHi hi d rd wr, .ioUnmappedA0 l2 d rd wr, .ioUnmapped98 l2 d rd wr],
      i.wellFormed s.params = true → ∃ t, exec i s = .next t ∧
        Bus.ce (pio1Input (presentRow i s)) = false ∧ Bus.ce (pio2Word s.params.chips (presentRow i s)) = false ∧
        Bus.ce (ctcWord s.params.chips (presentRow i s)) = false ∧
        t.pio1 = (s.params.chips.pioTick s.pio1 (pio1Input (presentRow i s))).state ∧
        t.pio2 = (s.params.chips.pioTick s.pio2 (pio2Word s.params.chips (presentRow i s))).state ∧
        t.ctc = (s.params.chips.ctcTick s.ctc (ctcWord s.params.chips (presentRow i s))).state ∧
        (rd = true → t.pins = (if dataAnswered s.params.chips (presentRow i s) then (chainStages s.params.chips (presentRow i s)).pins
            else Bus.setData (Config.freeByte s.draws) (chainStages s.params.chips (presentRow i s)).pins) ∧
          t.draws = if dataAnswered s.params.chips (presentRow i s) then s.draws else s.draws + 1) ∧
        (rd = false → Bus.m1 s.pins = false → t.pins = (chainStages s.params.chips (presentRow i s)).pins ∧ t.draws = s.draws) ∧
        t.ram = s.ram

/-- INTA (60_exceptions R414, 30_encoding R165): the row completes; all three peripherals are ticked in chain order with M1 and IORQ
set and the row's address; an acknowledge no device answers leaves the data field a free byte (any byte), an answered one what the
chain left. -/
def Obligations.AcknowledgeReachesThePeripheralsInOrder : Prop :=
  ∀ (s : State) (a : Addr), ∃ t, exec (.inta a) s = .next t ∧
    (∀ p ∈ [pio1Input (presentRow (.inta a) s), pio2Word s.params.chips (presentRow (.inta a) s),
        ctcWord s.params.chips (presentRow (.inta a) s)], Bus.isInta p = true ∧ Bus.addr p = a) ∧
    t.pio1 = (s.params.chips.pioTick s.pio1 (pio1Input (presentRow (.inta a) s))).state ∧
    t.pio2 = (s.params.chips.pioTick s.pio2 (pio2Word s.params.chips (presentRow (.inta a) s))).state ∧
    t.ctc = (s.params.chips.ctcTick s.ctc (ctcWord s.params.chips (presentRow (.inta a) s))).state ∧
    t.pins = (if dataAnswered s.params.chips (presentRow (.inta a) s) then (chainStages s.params.chips (presentRow (.inta a) s)).pins
      else Bus.setData (Config.freeByte s.draws) (chainStages s.params.chips (presentRow (.inta a) s)).pins) ∧
    t.draws = if dataAnswered s.params.chips (presentRow (.inta a) s) then s.draws else s.draws + 1

/-- RETI (60_exceptions R417, 30_encoding R166): the row completes; the signal reaches all three peripherals in chain order. -/
def Obligations.RetiReachesEveryPeripheral : Prop :=
  ∀ s : State, ∃ t, exec .reti s = .next t ∧
    (∀ p ∈ [pio1Input (presentRow .reti s), pio2Word s.params.chips (presentRow .reti s),
        ctcWord s.params.chips (presentRow .reti s)], Bus.reti p = true) ∧
    t.pio1 = (s.params.chips.pioTick s.pio1 (pio1Input (presentRow .reti s))).state ∧
    t.pio2 = (s.params.chips.pioTick s.pio2 (pio2Word s.params.chips (presentRow .reti s))).state ∧
    t.ctc = (s.params.chips.ctcTick s.ctc (ctcWord s.params.chips (presentRow .reti s))).state

/-- The frame of every row of the I/O, acknowledge and RETI groups: it changes only the peripherals, the keyboard selection, the
audio generator, the cascade latch, the bus word and the draw counter. Every byte the CPU can read, the blocks behind them, the
framebuffer, the blink state, the audio buffer and the configuration stay. -/
def Obligations.PeripheralRowsFrame : Prop :=
  ∀ (s t : State) (i : Instr), isMemoryRow i = false → exec i s = .next t →
    t = { s with
      pio1 := t.pio1, pio2 := t.pio2, ctc := t.ctc, kbd := t.kbd, beeper := t.beeper, ctcCascade := t.ctcCascade
      pins := t.pins, draws := t.draws } ∧
    ∀ a : Addr, memRead t a = memRead s a

/-! ### The stages and the interrupt daisy chain, for every collaborator -/

/-- The daisy-chain contract of a peripheral's tick (00_scope R19): its enable output is 1 only if its enable input is. That
it holds for every collaborator is the model's construction of the contract (log entry 5). -/
def Obligations.EnableOutputNeedsEnableInput : Prop :=
  ∀ C : Collaborators,
    (∀ st p, Bus.ieio (pioTick C st p).2 = true → Bus.ieio p = true) ∧
    (∀ st p, Bus.ieio (ctcTick C st p).2 = true → Bus.ieio p = true)

/-- The pass-through of a peripheral's tick (00_scope R21): it changes none of the address field, M1, MREQ, IORQ, RD, WR, RETI; and an I/O
controller leaves the data field alone outside a register read and an acknowledge (R17). That it holds for every collaborator is the
model's construction of the contracts (log entry 5). -/
def Obligations.PeripheralTicksPassTheBusThrough : Prop :=
  ∀ (C : Collaborators) (p : Pins),
    (∀ q : Pins, ((∃ st, q = (pioTick C st p).2) ∨ (∃ st, q = (ctcTick C st p).2)) →
      Bus.addr q = Bus.addr p ∧ Bus.m1 q = Bus.m1 p ∧ Bus.mreq q = Bus.mreq p ∧ Bus.iorq q = Bus.iorq p ∧
      Bus.rd q = Bus.rd p ∧ Bus.wr q = Bus.wr p ∧ Bus.reti q = Bus.reti p) ∧
    ∀ st, (Bus.iorq p && Bus.ce p && Bus.rd p) = false → Bus.isInta p = false → Bus.data (pioTick C st p).2 = Bus.data p

/-- Chain head and links (41_io_daisy_chain R258, R259): the enable input of I/O controller #1 is 1 whatever the word held, each
later device's is the enable output of the one before it, and the returned enable is the counter/timer's output. -/
def Obligations.DaisyChainIsThreadedInPriorityOrder : Prop :=
  ∀ (C : Collaborators) (s : State),
    Bus.ieio (pio1Input s) = true ∧
    Bus.ieio (pio2Word C s) = Bus.ieio (pioTick C s.pio1 (pio1Input s)).2 ∧
    Bus.ieio (ctcWord C s) = Bus.ieio (pioTick C s.pio2 (pio2Word C s)).2 ∧
    Bus.ieio (ioPhase C s).pins = Bus.ieio (ctcTick C s.ctc (ctcWord C s)).2

/-- Priority (41_io_daisy_chain R261): a device that leaves its enable output 0 leaves every later device with enable input 0 in the
same Tick, and the returned enable 0. -/
def Obligations.BusyDeviceBlocksTheLaterOnes : Prop :=
  ∀ (C : Collaborators) (s : State),
    (Bus.ieio (pioTick C s.pio1 (pio1Input s)).2 = false →
      Bus.ieio (pio2Word C s) = false ∧ Bus.ieio (ctcWord C s) = false ∧ Bus.ieio (ioPhase C s).pins = false) ∧
    (Bus.ieio (pioTick C s.pio2 (pio2Word C s)).2 = false →
      Bus.ieio (ctcWord C s) = false ∧ Bus.ieio (ioPhase C s).pins = false)

/-- At most one device answers an acknowledge (60_exceptions R414), for every collaborator that drives data in an acknowledge only
with its enable input 1 and then leaves its enable output 0. -/
def Obligations.AtMostOneDeviceAnswersAnAcknowledge : Prop :=
  ∀ (C : Collaborators) (s : State), AckContract C → Bus.isInta s.pins = true →
    ((pioData (C.pioTick s.pio1 (pio1Input s)) (pio1Input s)).isSome = true →
      pioData (C.pioTick s.pio2 (pio2Word C s)) (pio2Word C s) = none ∧ (C.ctcTick s.ctc (ctcWord C s)).data = none) ∧
    ((pioData (C.pioTick s.pio2 (pio2Word C s)) (pio2Word C s)).isSome = true → (C.ctcTick s.ctc (ctcWord C s)).data = none)

/-- The interrupt request of the returned pins (41_io_daisy_chain R260): the OR of what the CPU's word carried and the three
devices' requests. -/
def Obligations.InterruptRequestIsTheOrOfAll : Prop :=
  ∀ (C : Collaborators) (s : State),
    Bus.int (ioPhase C s).pins =
      (Bus.int s.pins || (C.pioTick s.pio1 (pio1Input s)).int || (C.pioTick s.pio2 (pio2Word C s)).int
        || (C.ctcTick s.ctc (ctcWord C s)).int)

/-- Chip-select (41_io_daisy_chain R250): a device's CE is asserted for its stage exactly when IORQ is 1 and A7..A3 is its select,
in the word its stage begins with (R251); and at most one CE is asserted in a Tick when the selects are distinct (R256), which rests on the
pass-through the model builds in (log entry 5). -/
def Obligations.ChipSelectIsExactAndExclusive : Prop :=
  ∀ (C : Collaborators) (s : State), Bus.Canonical s.pins →
    (Bus.ce (pio1Input s) = true ↔ Bus.iorq s.pins = true ∧ Bus.aSel s.pins = s.params.pio1Sel) ∧
    (Bus.ce (pio2Word C s) = true ↔
      Bus.iorq (pio1Stage C s).pins = true ∧ Bus.aSel (pio1Stage C s).pins = s.params.pio2Sel) ∧
    (Bus.ce (ctcWord C s) = true ↔
      Bus.iorq (pio2Stage C (pio1Stage C s)).pins = true ∧ Bus.aSel (pio2Stage C (pio1Stage C s)).pins = s.params.ctcSel) ∧
    (s.params.SelectsDistinct →
      ¬ (Bus.ce (pio1Input s) = true ∧ Bus.ce (pio2Word C s) = true) ∧
      ¬ (Bus.ce (pio1Input s) = true ∧ Bus.ce (ctcWord C s) = true) ∧
      ¬ (Bus.ce (pio2Word C s) = true ∧ Bus.ce (ctcWord C s) = true))

/-- I/O controller #1 is ticked with both port inputs, both strobes and every other device-local input but its three selects 0
(41_io_daisy_chain R263). -/
def Obligations.Pio1PortInputsAreZero : Prop :=
  ∀ s : State, Bus.Canonical s.pins → Bus.portA (pio1Input s) = 0#8 ∧ Bus.portB (pio1Input s) = 0#8 ∧
    ∀ n, 43 ≤ n → n < 64 → Bus.bit n (pio1Input s) = false

/-- The keyboard loop (41_io_daisy_chain R270, R271): controller #2's ports hold the complemented scan, and its complemented port
outputs become the keyboard's active columns and then lines. -/
def Obligations.KeyboardLoopThroughController2 : Prop :=
  ∀ (C : Collaborators) (s : State),
    Bus.portA (pio2Word C s) = ~~~ C.kbdScanColumns s.kbd ∧ Bus.portB (pio2Word C s) = ~~~ C.kbdScanLines s.kbd ∧
    (ioPhase C s).kbd =
      C.kbdSetActiveLines (C.kbdSetActiveColumns s.kbd (~~~ (C.pioTick s.pio2 (pio2Word C s)).pa))
        (~~~ (C.pioTick s.pio2 (pio2Word C s)).pb)

/-- The cascade latch (41_io_daisy_chain R279): the captured bit stands on the destination channel's clock/trigger input and the
other inputs are 0; after the tick the source channel's terminal count is captured. -/
def Obligations.CascadeLatchDelaysOneTick : Prop :=
  ∀ (C : Collaborators) (s : State), cascadeOk s.params = true →
    (∀ k, k < 4 → Bus.clktrg k (ctcWord C s) = if k = s.params.cascadeDst then s.ctcCascade else false) ∧
    (ioPhase C s).ctcCascade = (C.ctcTick s.ctc (ctcWord C s)).zcto.getLsbD s.params.cascadeSrc

/-- The audio toggle (41_io_daisy_chain R281): in the cycle in which the audio channel's terminal count is 1 the generator is
toggled, once, before step 6 ticks it; otherwise it is not. -/
def Obligations.TerminalCountTogglesTheAudioGenerator : Prop :=
  ∀ (C : Collaborators) (s : State), s.params.audioCh ≤ 2 →
    (ioPhase C s).beeper =
      (if (C.ctcTick s.ctc (ctcWord C s)).zcto.getLsbD s.params.audioCh then C.beeperToggle s.beeper else s.beeper) ∧
    (audioStep C (ioPhase C s)).beeper = (C.beeperTick (ioPhase C s).beeper).1

/-- Every stage masks its result to the canonical set (41_io_daisy_chain R257): no device-local signal of one stage reaches the next
or the returned word. -/
def Obligations.EveryStageReturnsCanonicalPins : Prop :=
  ∀ (C : Collaborators) (s : State),
    Bus.Canonical (cpuPhase C s).pins ∧ Bus.Canonical (pio1Stage C s).pins ∧ Bus.Canonical (pio2Stage C s).pins ∧
    Bus.Canonical (ctcStage C s).pins ∧ Bus.Canonical (ioPhase C s).pins

/-! ### Audio and blink -/

/-- The audio step (40_tick_engine R220 to R222): the generator is ticked once; without a sample only the generator advances; a sample is
stored at the write position, and the entries this fill has written stay (10_state R67); the sample that fills the buffer delivers exactly
the configured count of samples, in append order, and returns the position to 0. -/
def Obligations.AudioSamplesAreAppendedAndDelivered : Prop :=
  ∀ (C : Collaborators) (s : State) (v : Sample), cellsWf (Config.audioUndef s.audioFill) s.audioBuf = true →
    (audioStep C s).beeper = (C.beeperTick s.beeper).1 ∧
    ((C.beeperTick s.beeper).2 = none → audioStep C s = { s with beeper := (C.beeperTick s.beeper).1 }) ∧
    ((C.beeperTick s.beeper).2 = some v → s.audioPos + 1 ≠ s.audioN →
      (audioStep C s).audioPos = s.audioPos + 1 ∧ audioEntry (audioStep C s) s.audioPos = v ∧
      (∀ i, i < s.audioPos → audioEntry (audioStep C s) i = audioEntry s i) ∧ (audioStep C s).events = s.events) ∧
    ((C.beeperTick s.beeper).2 = some v → s.audioPos + 1 = s.audioN →
      (audioStep C s).audioPos = 0 ∧
      ∃ l, (audioStep C s).events = s.events ++ [.audioBuffer l] ∧ l.length = s.audioN ∧ l[s.audioPos]? = some v ∧
        ∀ i, i < s.audioPos → l[i]? = some (audioEntry s i))

/-- The blink divider (40_tick_engine R226): at 0 it reloads and bit 7 flips, else it decrements; bits 6..0 never change.
A reload value past 32 bits is cut to the counter's width (the model's choice, log entry 29). -/
def Obligations.BlinkDividerReloadsAndFlips : Prop :=
  ∀ s : State,
    (s.blinkCounter = 0#32 → (blinkStep s).blinkCounter = blinkReload s.params ∧ blinkBit (blinkStep s).blinkFF = !blinkBit s.blinkFF) ∧
    (s.blinkCounter ≠ 0#32 → (blinkStep s).blinkCounter.toNat = s.blinkCounter.toNat - 1 ∧ (blinkStep s).blinkFF = s.blinkFF) ∧
    ∀ n, n < 7 → (blinkStep s).blinkFF.getLsbD n = s.blinkFF.getLsbD n

/-- The blink period (40_tick_engine R227): counted from a flip, bit 7 holds for BLINK_RELOAD further blink steps and flips at the
next, for every clock whose reload value the 32-bit counter holds. -/
def Obligations.BlinkFlipsEveryReloadPlusOneSteps : Prop :=
  ∀ s : State, s.blinkCounter = 0#32 → s.params.clkHz / 25 < 2 ^ 32 →
    (∀ k, k ≤ s.params.clkHz / 25 → (blinkStep^[k + 1] s).blinkFF = blinkFlip s.blinkFF) ∧
    (blinkStep^[s.params.clkHz / 25 + 1] s).blinkCounter = 0#32 ∧
    (blinkStep^[s.params.clkHz / 25 + 2] s).blinkFF = s.blinkFF

/-! ### The Tick and the step -/

/-- The step runs the decoded rows: on a valid instance it is the CPU's cycle, the memory row's meaning, the peripheral row's
meaning, the audio step, the blink step and the debug hook, in that order; a memory row that faults ends it. That one of the
peripheral rows a word matches runs for all of them is the model's choice (log entry 8). That the step of the machine takes the hook
call with the Tick, and checks the instance first, is the model's choice (log entry 21). -/
def Obligations.StepRunsTheDecodedRows : Prop :=
  ∀ s : State, s.valid = true →
    (∀ s2 s3, exec (decodeMem (nextWord s)) (cpuPhase s.params.chips s) = .next s2 →
      exec (decodeBus s2.params s2.pins) s2 = .next s3 →
      step s = .next (hookCall Config.stoppedDraw (blinkStep (audioStep s.params.chips s3)))) ∧
    (∀ r, exec (decodeMem (nextWord s)) (cpuPhase s.params.chips s) = .fault r → step s = .fault r)

/-- The dispatched Tick is the sequence of steps of 40_tick_engine R200, on every state: the decode map, the row meanings and the choice of
row add nothing to it and drop nothing of it. Beside what R200 writes, steps 3 to 5 of both put a free byte in the data field of a cycle whose
read or acknowledge no device answers, and advance the model's draw counter (41_io_daisy_chain R280, 60_exceptions R414, 92_eei_decisions
D40; in part the model's choice, log entry 12). -/
def Obligations.DispatchedTickIsTheTickOfTheSpec : Prop := ∀ s : State, tick s = tickWith s.params.chips s

/-- A step completes on every valid instance whose CPU keeps its contract, faults with the bus word when the CPU reads and writes at
once (40_tick_engine R230, R206), and faults on an invalid instance. That the step itself makes Execute's check of the instance
(43_execution_driver R351) is the model's choice (log entry 21). -/
def Obligations.StepCompletesOrFaultsByName : Prop :=
  ∀ s : State,
    (Runs s → ∃ t, step s = .next t) ∧
    (s.valid = true → cpuWordLegal (nextWord s) = false → step s = .fault (.busReadWriteBoth (nextWord s))) ∧
    (s.valid = false → step s = .fault (.invalidInstance .execute))

/-- What no CPU cycle can change (10_state R73, 20_memory R106): the map, ROM, font, framebuffer, variant, parameters, remainder,
audio count and configuration stay, and the blink state after a Tick depends on the blink state before it alone. -/
def Obligations.NoBusCycleReachesTheConfiguration : Prop :=
  ∀ s t : State, tick s = .next t →
    t.map = s.map ∧ t.rom = s.rom ∧ t.font = s.font ∧ t.fb = s.fb ∧ t.variant = s.variant ∧ t.params = s.params ∧
    t.clkRem = s.clkRem ∧ t.hook = s.hook ∧ t.audioN = s.audioN ∧ t.audioCfg = s.audioCfg ∧ t.valid = s.valid ∧
    t.blinkCounter = (blinkStep s).blinkCounter ∧ t.blinkFF = (blinkStep s).blinkFF

/-- A Tick leaves RAM alone outside a memory write cycle, and in a write cycle changes at most the one byte behind the address, the
index `memWriteIndex` computes (20_memory R118, R119; 40_tick_engine R205). -/
def Obligations.TickWritesAtMostOneByte : Prop :=
  ∀ s t : State, tick s = .next t →
    ((Bus.mreq (nextWord s) && Bus.wr (nextWord s)) = false → t.ram = s.ram) ∧
    ∀ k, memWriteIndex s (Bus.addr (nextWord s)) ≠ some k → cellRead ramBg t.ram k = cellRead ramBg s.ram k

/-- The invariant of a valid instance is kept by every step, in every state that meets it. -/
def Obligations.StepKeepsTheInvariant : Prop := ∀ s t : State, Inv s → step s = .next t → Inv t

/-- `State.reset` meets the invariant. Its parameter values are the reference ones (log entries 2, 3). -/
def Obligations.ResetStateMeetsTheInvariant : Prop := Inv State.reset

/-- The debug hook (43_execution_driver R356): with a hook a cycle records one call with the post-tick pins and then holds the flag
the host left (a free draw); without a hook it records none. -/
def Obligations.DebugHookIsCalledOncePerCycle : Prop :=
  ∀ (draw : Nat → Bool) (s t : State), tick s = .next t →
    (∀ h, t.hook = some h → ∃ u, cycle draw s = .next u ∧ u.events = t.events ++ [.debugHook t.pins] ∧
      u.hook = some { h with stopped := draw t.draws } ∧ u.pins = t.pins) ∧
    (t.hook = none → cycle draw s = .next t)

/-- A scripted CPU presents its next line, records its input pins, and presents IDLE after its last line (30_encoding R171). -/
def Obligations.ScriptedCpuPresentsItsLines : Prop :=
  ∀ (C : Collaborators) (s : State) (sc : Script), s.cpu = .scripted sc →
    (cpuPhase C s).pins = Bus.mask (sc.lines.getD sc.pos 0#64) ∧
    (sc.lines.length ≤ sc.pos → (cpuPhase C s).pins = 0#64) ∧
    (cpuPhase C s).cpu = .scripted { sc with pos := sc.pos + 1, seen := sc.seen ++ [s.pins] }

/-! ### The video decode -/

/-- The video decode (42_video_pipeline R307, R308): each visible pixel is the colour its pattern bit selects, zero-extended; the
colours are the attribute's, swapped while the cell blinks, or the monochrome pair; every other byte of the framebuffer and every
other field of the state stays. -/
def Obligations.VideoDecodePaintsEveryVisiblePixel : Prop :=
  ∀ s : State, cellsWf fbBg s.fb = true →
    (∀ r py c k, r < 24 → py < 8 → c < 40 → k < 8 →
      fbRead (videoDecode s) (512 * (8 * r + py) + 8 * c + k) =
        (let ch := cellRead ramBg s.ram (s.params.vramBase + 40 * r + c)
         let px8 := cellRead fontBg s.font (8 * ch.toNat + py)
         let at8 := cellRead ramBg s.ram (s.params.aramBase + 40 * r + c)
         let fg := match s.variant with
           | .color => if at8.getLsbD 7 && s.blinkFF.getLsbD 7 then at8.extractLsb' 0 3 else at8.extractLsb' 4 3
           | .mono => s.params.monoFg
         let bg := match s.variant with
           | .color => if at8.getLsbD 7 && s.blinkFF.getLsbD 7 then at8.extractLsb' 4 3 else at8.extractLsb' 0 3
           | .mono => s.params.monoBg
         (if px8.getLsbD (7 - k) then fg else bg).setWidth 8)) ∧
    (∀ i, 320 ≤ i % 512 ∨ 98304 ≤ i → fbRead (videoDecode s) i = fbRead s i) ∧
    videoDecode s = { s with fb := (videoDecode s).fb }

/-- Decoding twice gives the framebuffer of decoding once, and two states with the same video memory reads, font, blink bit and
variant decode to the same visible pixels (42_video_pipeline R311, R312). -/
def Obligations.VideoDecodeIsIdempotentAndDetermined : Prop :=
  (∀ s : State, cellsWf fbBg s.fb = true → videoDecode (videoDecode s) = videoDecode s) ∧
  (∀ s t : State, cellsWf fbBg s.fb = true → cellsWf fbBg t.fb = true → s.variant = t.variant → s.params = t.params →
    blinkBit s.blinkFF = blinkBit t.blinkFF → s.font = t.font →
    (∀ n, n < 960 → cellRead ramBg s.ram (s.params.vramBase + n) = cellRead ramBg t.ram (t.params.vramBase + n)) →
    (∀ n, n < 960 → cellRead ramBg s.ram (s.params.aramBase + n) = cellRead ramBg t.ram (t.params.aramBase + n)) →
    ∀ x y, x < 320 → y < 192 → fbRead (videoDecode s) (512 * y + x) = fbRead (videoDecode t) (512 * y + x))

/-! ### Execute and the host operations -/

/-- Execute without a hook (43_execution_driver R352, R353): whenever it completes it has run exactly
`floor((clkRem + us * CLK_HZ) / 10^6)` Ticks, from the state that carries the exact remainder, and then aged the keyboard and decoded video;
and it returns their number. -/
def Obligations.ExecuteRunsExactlyItsCycles : Prop :=
  ∀ (draw : Nat → Bool) (s t : State) (us i : Nat), s.hook = none → execute draw (some s) us = .next (t, i) →
    i = (s.clkRem + us * s.params.clkHz) / 1000000 ∧ t.clkRem = (s.clkRem + us * s.params.clkHz) % 1000000 ∧
    ∃ u, ticks i { s with clkRem := (s.clkRem + us * s.params.clkHz) % 1000000 } = .next u ∧
      t = videoDecode { u with kbd := s.params.chips.kbdUpdate u.kbd us }

/-- No cycle is dropped over a sequence of calls (43_execution_driver R353): without a hook the counts any sequence of calls returns add up
to that of one call of the summed duration, and the remainder carried is that call's. -/
def Obligations.NoCycleIsDroppedAcrossCalls : Prop :=
  ∀ (draw : Nat → Bool) (us : List Nat) (s t : State) (n : Nat), s.hook = none → executeMany draw us s = .next (t, n) →
    us ≠ [] → n = (s.clkRem + us.sum * s.params.clkHz) / 1000000 ∧ t.clkRem = (s.clkRem + us.sum * s.params.clkHz) % 1000000

/-- Execute stops before the first Tick when the flag is already true, and still ages the keyboard by the requested duration and
decodes video (43_execution_driver R354 to R356). -/
def Obligations.StoppedExecuteRunsNoTick : Prop :=
  ∀ (draw : Nat → Bool) (s : State) (us : Nat), s.valid = true → hookStopped s = true →
    execute draw (some s) us = .next
      (videoDecode { s with
        clkRem := (s.clkRem + us * s.params.clkHz) % 1000000, kbd := s.params.chips.kbdUpdate s.kbd us }, 0)

/-- Execute keeps the invariant, however many Ticks it runs and whatever the host draws. -/
def Obligations.ExecuteKeepsTheInvariant : Prop :=
  ∀ (draw : Nat → Bool) (s t : State) (us n : Nat), Inv s → execute draw (some s) us = .next (t, n) → Inv t

/-- Every host operation but Init, and but DisplayInfo on a null instance, faults on a null instance and on an invalid one
(43_execution_driver R351; 60_exceptions R401). -/
def Obligations.HostOperationsCheckTheInstance : Prop :=
  ∀ (draw : Nat → Bool) (us key : Nat) (img : Option (Offered LoadImage)) (snap : Option (Offered State))
    (P : Params),
    (resetOp none = .fault (.nullArgument .reset) ∧ discardOp none = .fault (.nullArgument .discard) ∧
      execute draw none us = .fault (.nullArgument .execute) ∧ keyDown none key = .fault (.nullArgument .keyDown) ∧
      keyUp none key = .fault (.nullArgument .keyUp) ∧ quickload none img = .fault (.nullArgument .quickload) ∧
      saveSnapshot none = .fault (.nullArgument .saveSnapshot) ∧ loadSnapshot none snap = .fault (.nullArgument .loadSnapshot)) ∧
    ∀ s : State, s.valid = false →
      resetOp (some s) = .fault (.invalidInstance .reset) ∧ discardOp (some s) = .fault (.invalidInstance .discard) ∧
      execute draw (some s) us = .fault (.invalidInstance .execute) ∧
      keyDown (some s) key = .fault (.invalidInstance .keyDown) ∧ keyUp (some s) key = .fault (.invalidInstance .keyUp) ∧
      quickload (some s) img = .fault (.invalidInstance .quickload) ∧
      saveSnapshot (some s) = .fault (.invalidInstance .saveSnapshot) ∧
      loadSnapshot (some s) snap = .fault (.invalidInstance .loadSnapshot) ∧
      displayInfo P (some s) = .fault (.invalidInstance .displayInfo)

/-- Init's checks come in the order of 70_reset_and_hazards R451. -/
def Obligations.InitChecksInOrder : Prop :=
  ∀ (s : State) (cfg : InitConfig),
    (∀ o : Option InitConfig, initOp none o = .fault (.nullArgument .init)) ∧ initOp (some s) none = .fault (.nullArgument .init) ∧
    ((cfg.font = none ∨ none ∈ cfg.romImages) → initOp (some s) (some cfg) = .fault (.nullArgument .init)) ∧
    (∀ (f : List Byte) (ims : List (List Byte)), cfg.font = some f → cfg.romImages = ims.map some →
      (ims.length = (romImages cfg.params cfg.variant).length →
        ims.map List.length ≠ romImages cfg.params cfg.variant ∨ f.length ≠ 2048 →
        ∃ im e g, e ≠ g ∧ initOp (some s) (some cfg) = .fault (.romSizeMismatch im e g)) ∧
      (ims.map List.length = romImages cfg.params cfg.variant → f.length = 2048 →
        (cfg.params.maxAudioSamples < cfg.audioCount →
          initOp (some s) (some cfg) = .fault (.audioBufferOversize cfg.audioCount)) ∧
        (cfg.audioCount ≤ cfg.params.maxAudioSamples →
          configWf cfg.params cfg.variant (audioCountOf cfg.params cfg.audioCount) = false →
          ∃ c, initOp (some s) (some cfg) = .fault (.configIllFormed c)) ∧
        (cfg.audioCount ≤ cfg.params.maxAudioSamples →
          configWf cfg.params cfg.variant (audioCountOf cfg.params cfg.audioCount) = true →
          initOp (some s) (some cfg) = .next (initState s cfg))))

/-- An Init that completes leaves an instance that meets the invariant, whose CPU fetches next from the configuration's entry address
(70_reset_and_hazards R454), and whose every field has the value the configuration and R452 give it, whatever the instance held: a block of
cells is stated by what each index reads as. The audio buffer has no written entry then (10_state R67), and the two counters of the
model's own are left out. That the generator's reset is told the rate and volume is the model's choice (log entry 16), and so are
that the record of events, which R452 does not write, begins empty (log entry 18), and that the machine's own
array stands where the configuration gives no byte of RAM (log entry 13). -/
def Obligations.InitWritesEveryField : Prop :=
  ∀ (s t : State) (cfg : InitConfig), initOp (some s) (some cfg) = .next t →
    Inv t ∧ t.params = cfg.params ∧ t.variant = cfg.variant ∧
    t.cpu = cpuSetEntry cfg.params.chips (cpuInit cfg.params.chips cfg.cpu) cfg.params.entryAddr ∧ cpuNextFetch t.cpu = cfg.params.entryAddr ∧
    t.pins = cfg.params.pinsInit.setWidth 64 ∧ t.map = memoryMap cfg.params cfg.variant ∧
    t.pio1 = cfg.params.chips.pioReset ∧ t.pio2 = cfg.params.chips.pioReset ∧ t.ctc = cfg.params.chips.ctcReset ∧ t.ctcCascade = false ∧
    t.beeper = cfg.params.chips.beeperReset t.audioCfg.sampleRate t.audioCfg.volume ∧ t.kbd = cfg.params.chips.kbdInit ∧
    t.blinkCounter = 0#32 ∧ t.blinkFF = 0#8 ∧ t.clkRem = 0 ∧ t.audioPos = 0 ∧ t.events = [] ∧ t.hook = cfg.hook ∧
    t.audioN = (if cfg.audioCount = 0 then cfg.params.defaultAudioSamples else cfg.audioCount) ∧
    t.audioCfg =
      { callback := cfg.audioCallback
        sampleRate := if cfg.audioRate = 0 then Config.defaultSampleRate else cfg.audioRate
        volume := if cfg.audioVolume = 0 then Config.defaultVolume else cfg.audioVolume } ∧
    (∀ i b, i < cfg.params.ramSize → cfg.initRam[i]? = some b → cellRead ramBg t.ram i = b) ∧
    (∀ i, cfg.initRam.length ≤ i → cellRead ramBg t.ram i = Config.initRam i) ∧ (∀ i, fbRead t i = 0#8) ∧
    (∀ (f : List Byte) (i : Nat) (b : Byte), cfg.font = some f → f[i]? = some b → cellRead fontBg t.font i = b) ∧
    ∀ (ims : List (List Byte)) (i : Nat) (b : Byte), cfg.romImages = ims.map some → ims.flatten[i]? = some b →
      cellRead romBg t.rom i = b

/-- The state Init leaves for the reference configuration, on an instance the model has drawn nothing for, is `State.reset`: the
machine's own RAM fill, ROM images of 0x2000 bytes each and font, no hook and every audio request 0 (log entries 1 to 3). -/
def Obligations.ReferenceInitGivesTheResetState : Prop :=
  ∀ s : State, s.draws = 0 →
    initOp (some s) (some
      { variant := .color, params := referenceParams, cpu := .chip
        romImages := [some ((List.range 0x2000).map romBg), some ((List.range 0x2000).map fun i => romBg (0x2000 + i))]
        font := some ((List.range 2048).map fontBg)
        initRam := (List.range 65536).map ramBg
        hook := none, audioCallback := 0, audioRate := 0, audioCount := 0, audioVolume := 0 }) = .next State.reset

/-- Reset (70_reset_and_hazards R455): on a valid instance it completes; the CPU is reset and fetches next from the entry address,
the pins are CpuReset's masked, the peripherals, the cascade latch and the audio generator are in their reset states; nothing else
changes. That the generator's reset is told the configured rate and volume is the model's choice (log entry 16). -/
def Obligations.ResetReinitialisesCpuAndChips : Prop :=
  ∀ s : State, s.valid = true → ∃ t, resetOp (some s) = .next t ∧
    t.cpu = cpuSetEntry s.params.chips (cpuReset s.params.chips s.cpu).1 s.params.entryAddr ∧
    t.pins = Bus.mask (cpuReset s.params.chips s.cpu).2 ∧ t.pio1 = s.params.chips.pioReset ∧ t.pio2 = s.params.chips.pioReset ∧
    t.ctc = s.params.chips.ctcReset ∧ t.ctcCascade = false ∧
    t.beeper = s.params.chips.beeperReset s.audioCfg.sampleRate s.audioCfg.volume ∧
    t = { s with
      cpu := t.cpu, pins := t.pins, pio1 := t.pio1, pio2 := t.pio2, ctc := t.ctc, ctcCascade := t.ctcCascade, beeper := t.beeper }

/-- After any number of cycles a Reset restores the entry address and the peripherals' reset states, whatever happened before
(70_reset_and_hazards R456). That the generator's reset is told the configured rate and volume is the model's choice (log entry 16). -/
def Obligations.ResetRestoresTheEntryAddress : Prop :=
  ∀ (n : Nat) (s t u : State), Host.Core.run Sys2Proof.core n s = .next t → resetOp (some t) = .next u →
    cpuNextFetch u.cpu = s.params.entryAddr ∧ u.pio1 = s.params.chips.pioReset ∧ u.pio2 = s.params.chips.pioReset ∧
    u.ctc = s.params.chips.ctcReset ∧ u.ctcCascade = false ∧
    u.beeper = s.params.chips.beeperReset s.audioCfg.sampleRate s.audioCfg.volume

/-- Discard marks a valid instance invalid (70_reset_and_hazards R458); its other fields are free, and Init rebuilds it. -/
def Obligations.DiscardMakesTheInstanceInvalid : Prop :=
  ∀ (s : State), s.valid = true → ∃ t, discardOp (some s) = .next t ∧ t.valid = false ∧
    (∀ us draw, execute draw (some t) us = .fault (.invalidInstance .execute)) ∧
    ∀ cfg, initFault cfg = none → initOp (some t) (some cfg) = .next (initState t cfg)

/-- DisplayInfo (43_execution_driver R361): the dimensions, with a null framebuffer for a null instance and the instance's for a live one; and
the palette the configuration carries, of eight entries. A call without an instance is told the parameters whose palette it gives, which is
the model's form of the call (log entry 24). -/
def Obligations.DisplayInfoGivesTheGeometry : Prop :=
  ∀ (P : Params) (s : State), s.valid = true → ∀ live ∈ [(none : Option State), some s], ∃ i, displayInfo P live = .next i ∧ i.width = 320 ∧
    i.height = 192 ∧ i.stride = 512 ∧ i.bytesPerPixel = 1 ∧ i.fbSize = 98304 ∧ i.palette.length = 8 ∧
    i.palette = (live.elim P State.params).palette.toList ∧
    i.buffer = live.map fun x => x.fb

/-- Key events change the keyboard only (43_execution_driver R362). A null image or snapshot faults (60_exceptions R401), and a rejected one
changes nothing; an accepted load writes memory through MemWrite alone, in order, and then sets the CPU's entry address if it has one; an
accepted snapshot replaces the whole state but for the mode and the live host's hook and audio callback (R363; 60_exceptions R402, R421).
The last two fields, the model's own record of events and draws, are the live ones by the model's choice, and so are the parameters as
part of the replaced state (log entry 23). -/
def Obligations.HostEventsAndLoadsChangeWhatTheyName : Prop :=
  ∀ (s : State) (key : Nat), s.valid = true →
    (∃ t, keyDown (some s) key = .next t ∧ t = { s with kbd := t.kbd }) ∧
    (∃ t, keyUp (some s) key = .next t ∧ t = { s with kbd := t.kbd }) ∧
    quickload (some s) none = .fault (.nullArgument .quickload) ∧ loadSnapshot (some s) none = .fault (.nullArgument .loadSnapshot) ∧
    quickload (some s) (some .rejected) = .next (s, false) ∧ loadSnapshot (some s) (some .rejected) = .next (s, false) ∧
    saveSnapshot (some s) = .next s ∧
    (∀ img : LoadImage, ∃ t, quickload (some s) (some (.accepted img)) = .next (t, true) ∧ t = { s with ram := t.ram, cpu := t.cpu } ∧
      t.ram = (img.writes.foldl (fun u w => memWrite u w.1 w.2) s).ram ∧
      (img.entry = none → t.cpu = s.cpu) ∧
      ∀ a, img.entry = some a → t.cpu = cpuSetEntry s.params.chips s.cpu a ∧ cpuNextFetch t.cpu = a) ∧
    ∀ u : State, loadSnapshot (some s) (some (.accepted u)) = .next
      ({ u with
          valid := true, hook := s.hook, audioCfg := { u.audioCfg with callback := s.audioCfg.callback }
          events := s.events, draws := max s.draws u.draws }, true)
end

