-- ==== Sys2Proof/Laws/Bus.lean ====
section
/-! SUPPORT. The laws of the bus word's fields: what a set field reads as, and that every other bit stays. -/

namespace Sys2Proof

theorem Bus.getLsbD_setField (lo : Nat) {w : Nat} (v : BitVec w) (p : Pins) (i : Nat) (hi : i < 64) :
    (Bus.setField lo v p).getLsbD i = if lo ≤ i ∧ i < lo + w then v.getLsbD (i - lo) else p.getLsbD i := by
  simp only [Bus.setField, BitVec.getLsbD_or, BitVec.getLsbD_and, BitVec.getLsbD_not, BitVec.getLsbD_shiftLeft,
    BitVec.getLsbD_setWidth, BitVec.getLsbD_allOnes, hi, decide_true, Bool.true_and]
  by_cases h1 : lo ≤ i
  · have h2 : ¬ i < lo := by omega
    by_cases h3 : i - lo < w
    · have : i < lo + w := by omega
      have h5 : i - lo < 64 := by omega
      simp [h1, h2, h3, this, h5]
    · have : ¬ i < lo + w := by omega
      simp [h1, h2, h3, this, BitVec.getLsbD_of_ge v (i - lo) (by omega)]
  · have h2 : i < lo := by omega
    simp [h1, h2]

theorem Bus.getLsbD_setBit (n : Nat) (b : Bool) (p : Pins) (i : Nat) (hi : i < 64) :
    (Bus.setBit n b p).getLsbD i = if i = n then b else p.getLsbD i := by
  rw [Bus.setBit, Bus.getLsbD_setField _ _ _ _ hi]
  by_cases h : i = n
  · subst h; simp
  · rw [if_neg h, if_neg (by omega)]

theorem Bus.getLsbD_field (lo w : Nat) (p : Pins) (i : Nat) :
    (Bus.field lo w p).getLsbD i = (decide (i < w) && p.getLsbD (lo + i)) := by
  simp [Bus.field, BitVec.getLsbD_extractLsb']

theorem Bus.canon_getLsbD (i : Nat) : Bus.canon.getLsbD i = decide (i < 40) := by
  by_cases h : i < 64
  · interval_cases i <;> rfl
  · rw [BitVec.getLsbD_of_ge _ _ (by omega)]; simp; omega

theorem Bus.getLsbD_mask (p : Pins) (i : Nat) : (Bus.mask p).getLsbD i = (decide (i < 40) && p.getLsbD i) := by
  rw [Bus.mask, BitVec.getLsbD_and, Bus.canon_getLsbD, Bool.and_comm]

/-- A bit set reads as what was set. -/
theorem Bus.bit_setBit_same (n : Nat) (h : n < 64) (b : Bool) (p : Pins) : Bus.bit n (Bus.setBit n b p) = b := by
  rw [Bus.bit, Bus.getLsbD_setBit _ _ _ _ h]; simp

/-- Setting one bit leaves another. -/
theorem Bus.bit_setBit_other (n k : Nat) (h : n < 64) (b : Bool) (p : Pins) (hk : n ≠ k) :
    Bus.bit n (Bus.setBit k b p) = Bus.bit n p := by
  rw [Bus.bit, Bus.getLsbD_setBit _ _ _ _ h]; simp [hk, Bus.bit]

/-- A field set leaves a bit outside it. -/
theorem Bus.bit_setField_out (n lo : Nat) {w : Nat} (v : BitVec w) (p : Pins) (h : n < 64) (ho : n < lo ∨ lo + w ≤ n) :
    Bus.bit n (Bus.setField lo v p) = Bus.bit n p := by
  rw [Bus.bit, Bus.getLsbD_setField _ _ _ _ h]
  have : ¬ (lo ≤ n ∧ n < lo + w) := by omega
  simp [this, Bus.bit]

/-- A bit inside a set field is the value's. -/
theorem Bus.bit_setField_in (n lo : Nat) {w : Nat} (v : BitVec w) (p : Pins) (h : n < 64) (hi : lo ≤ n ∧ n < lo + w) :
    Bus.bit n (Bus.setField lo v p) = v.getLsbD (n - lo) := by
  rw [Bus.bit, Bus.getLsbD_setField _ _ _ _ h]; simp [hi]

/-- Setting a field on a word with more bits set leaves more bits set. -/
theorem Bus.setField_mono (n lo : Nat) {w : Nat} (v : BitVec w) {p q : Pins} (h : Bus.bit n p = true → Bus.bit n q = true) :
    Bus.bit n (Bus.setField lo v p) = true → Bus.bit n (Bus.setField lo v q) = true := by
  by_cases hn : n < 64
  · unfold Bus.bit at h ⊢
    rw [Bus.getLsbD_setField _ _ _ _ hn, Bus.getLsbD_setField _ _ _ _ hn]
    split
    · exact id
    · exact h
  · intro hb
    rw [Bus.bit, BitVec.getLsbD_of_ge _ _ (by omega)] at hb
    cases hb

/-- So does setting a signal. -/
theorem Bus.setBit_mono (n k : Nat) (b : Bool) {p q : Pins} (h : Bus.bit n p = true → Bus.bit n q = true) :
    Bus.bit n (Bus.setBit k b p) = true → Bus.bit n (Bus.setBit k b q) = true := Bus.setField_mono n k _ h

/-- A field set reads as what was set. -/
theorem Bus.field_setField_same (lo : Nat) {w : Nat} (v : BitVec w) (p : Pins) (h : lo + w ≤ 64) :
    Bus.field lo w (Bus.setField lo v p) = v := by
  apply BitVec.eq_of_getLsbD_eq
  intro i hi
  rw [Bus.getLsbD_field, Bus.getLsbD_setField _ _ _ _ (by omega)]
  simp [hi]

/-- A field set leaves a field apart from it. -/
theorem Bus.field_setField_other (lo w : Nat) (lo' : Nat) {w' : Nat} (v : BitVec w') (p : Pins) (h : lo + w ≤ 64)
    (hd : lo + w ≤ lo' ∨ lo' + w' ≤ lo) : Bus.field lo w (Bus.setField lo' v p) = Bus.field lo w p := by
  apply BitVec.eq_of_getLsbD_eq
  intro i hi
  rw [Bus.getLsbD_field, Bus.getLsbD_field, Bus.getLsbD_setField _ _ _ _ (by omega)]
  have : ¬ (lo' ≤ lo + i ∧ lo + i < lo' + w') := by omega
  simp [this]

theorem Bus.field_setBit_other (lo w n : Nat) (b : Bool) (p : Pins) (h : lo + w ≤ 64) (hd : lo + w ≤ n ∨ n < lo) :
    Bus.field lo w (Bus.setBit n b p) = Bus.field lo w p :=
  Bus.field_setField_other lo w n _ p h (by omega)

/-- Setting a field to what it holds changes nothing. -/
theorem Bus.setField_self (lo : Nat) {w : Nat} (v : BitVec w) (p : Pins) (h : Bus.field lo w p = v) : Bus.setField lo v p = p := by
  apply BitVec.eq_of_getLsbD_eq
  intro i hi
  rw [Bus.getLsbD_setField _ _ _ _ hi]
  split
  · rw [← h, Bus.getLsbD_field]
    have h1 : i - lo < w := by omega
    have h2 : lo + (i - lo) = i := by omega
    simp [h1, h2]
  · rfl

theorem Bus.setBit_self (n : Nat) (hn : n < 64) (b : Bool) (p : Pins) (h : Bus.bit n p = b) : Bus.setBit n b p = p := by
  apply BitVec.eq_of_getLsbD_eq
  intro i hi
  rw [Bus.getLsbD_setBit _ _ _ _ hi]
  split
  · rename_i e; subst e; rw [← h]; rfl
  · rfl

/-- A masked word is canonical. -/
@[simp] theorem Bus.canonical_mask (p : Pins) : Bus.Canonical (Bus.mask p) := by
  apply BitVec.eq_of_getLsbD_eq
  intro i _
  simp only [Bus.getLsbD_mask, ← Bool.and_assoc, Bool.and_self]

/-- Masking keeps a canonical bit. -/
theorem Bus.bit_mask (n : Nat) (p : Pins) (h : n < 40) : Bus.bit n (Bus.mask p) = Bus.bit n p := by
  rw [Bus.bit, Bus.getLsbD_mask]; simp [h, Bus.bit]

/-- Masking clears a device-local bit. -/
theorem Bus.bit_mask_local (n : Nat) (p : Pins) (h : 40 ≤ n) : Bus.bit n (Bus.mask p) = false := by
  have : ¬ n < 40 := by omega
  rw [Bus.bit, Bus.getLsbD_mask]; simp [this]

/-- Masking keeps a canonical field. -/
theorem Bus.field_mask (lo w : Nat) (p : Pins) (h : lo + w ≤ 40) : Bus.field lo w (Bus.mask p) = Bus.field lo w p := by
  apply BitVec.eq_of_getLsbD_eq
  intro i hi
  rw [Bus.getLsbD_field, Bus.getLsbD_field, Bus.getLsbD_mask]
  have : lo + i < 40 := by omega
  simp [this]

/-- Setting a canonical field keeps a word canonical. -/
theorem Bus.canonical_setField (lo : Nat) {w : Nat} (v : BitVec w) (p : Pins) (hp : Bus.Canonical p) (h : lo + w ≤ 40) :
    Bus.Canonical (Bus.setField lo v p) := by
  apply BitVec.eq_of_getLsbD_eq
  intro i hi
  rw [Bus.getLsbD_mask]
  by_cases hc : i < 40
  · simp [hc]
  · rw [Bus.getLsbD_setField _ _ _ _ hi]
    have h1 : ¬ (lo ≤ i ∧ i < lo + w) := by omega
    have h2 := congrArg (fun q : Pins => q.getLsbD i) hp
    simp only [Bus.getLsbD_mask, hc, decide_false, Bool.false_and] at h2
    simp [h1, ← h2]

theorem Bus.canonical_setBit (n : Nat) (b : Bool) (p : Pins) (hp : Bus.Canonical p) (h : n < 40) : Bus.Canonical (Bus.setBit n b p) :=
  Bus.canonical_setField n _ p hp (by omega)

end Sys2Proof
end

