-- ==== Sys2Proof/Laws/Cells.lean ====
section
/-! SUPPORT. The laws of a block of cells: read after write, and that every operation keeps the canonical form and the size. -/

namespace Sys2Proof.Machine

variable {α : Type} (bg : Nat → α)

@[simp] theorem cellRead_nil (i : Nat) : cellRead bg [] i = bg i := rfl

theorem cellsFrom_mono {n k : Nat} (h : k ≤ n) {m : List (Nat × α)} (hm : cellsFrom n m = true) : cellsFrom k m = true := by
  simp only [cellsFrom, List.all_eq_true, decide_eq_true_eq] at *
  exact fun c hc => le_trans h (hm c hc)

/-- An index below every listed one reads as the background. -/
theorem cellRead_below {m : List (Nat × α)} {n i : Nat} (hm : cellsFrom n m = true) (h : i < n) : cellRead bg m i = bg i := by
  induction m with
  | nil => rfl
  | cons c m ih =>
    simp only [cellsFrom, List.all_cons, Bool.and_eq_true, decide_eq_true_eq] at hm
    have : i ≠ c.1 := by omega
    simp only [cellRead, this, if_false]
    exact ih (by simpa [cellsFrom] using hm.2)

theorem cellsBelow_mono {n k : Nat} (h : n ≤ k) {m : List (Nat × α)} (hm : cellsBelow n m = true) : cellsBelow k m = true := by
  simp only [cellsBelow, List.all_eq_true, decide_eq_true_eq] at *
  exact fun c hc => lt_of_lt_of_le (hm c hc) h

theorem indexedFrom_bounds (i : Nat) (vs : List α) : ∀ w ∈ indexedFrom i vs, i ≤ w.1 ∧ w.1 < i + vs.length := by
  induction vs generalizing i with
  | nil => simp [indexedFrom]
  | cons v vs ih =>
    intro w hw
    rcases List.mem_cons.mp hw with rfl | hw
    · simp
    · have := ih (i + 1) w hw
      simp only [List.length_cons]
      omega

variable [DecidableEq α]

/-- Reading another index than the one written: unchanged, in every list. -/
theorem cellRead_write_other (m : List (Nat × α)) (i k : Nat) (v : α) (h : k ≠ i) :
    cellRead bg (cellWrite bg m i v) k = cellRead bg m k := by
  induction m with
  | nil => unfold cellWrite; split <;> simp [cellRead, h]
  | cons c m ih =>
    obtain ⟨j, w⟩ := c
    unfold cellWrite
    split
    · split
      · rfl
      · simp [cellRead, h]
    · split
      · rename_i e
        subst e
        split <;> simp [cellRead, h]
      · simp only [cellRead, ih]

/-- Reading the index written gives the value written, in a canonical list. -/
theorem cellRead_write_same (m : List (Nat × α)) (hm : cellsWf bg m = true) (i : Nat) (v : α) :
    cellRead bg (cellWrite bg m i v) i = v := by
  induction m with
  | nil => unfold cellWrite; split <;> simp_all [cellRead]
  | cons c m ih =>
    obtain ⟨j, w⟩ := c
    simp only [cellsWf, Bool.and_eq_true, decide_eq_true_eq] at hm
    obtain ⟨⟨_, hfrom⟩, hwf⟩ := hm
    unfold cellWrite
    split
    · rename_i hij
      split
      · rename_i hv
        have : i ≠ j := by omega
        simp only [cellRead, this, if_false]
        rw [cellRead_below bg hfrom (by omega), hv]
      · simp [cellRead]
    · split
      · rename_i e
        subst e
        split
        · rename_i hv
          rw [cellRead_below bg hfrom (by omega), hv]
        · simp [cellRead]
      · rename_i hne
        simp only [cellRead, hne, if_false]
        exact ih hwf

/-- Read after write in a canonical list. -/
theorem cellRead_write (m : List (Nat × α)) (hm : cellsWf bg m = true) (i k : Nat) (v : α) :
    cellRead bg (cellWrite bg m i v) k = if k = i then v else cellRead bg m k := by
  split
  · rename_i e; subst e; exact cellRead_write_same bg m hm k v
  · rename_i e; exact cellRead_write_other bg m i k v e

/-- A cell of a written block is an old one or the one written. -/
theorem mem_cellWrite {m : List (Nat × α)} {i : Nat} {v : α} {c : Nat × α} (h : c ∈ cellWrite bg m i v) : c ∈ m ∨ c = (i, v) := by
  induction m with
  | nil =>
    unfold cellWrite at h
    split at h
    · simp at h
    · right; simpa using h
  | cons d m ih =>
    obtain ⟨j, w⟩ := d
    unfold cellWrite at h
    split at h
    · split at h
      · exact .inl h
      · rcases List.mem_cons.mp h with h | h
        · exact .inr h
        · exact .inl h
    · split at h
      · split at h
        · exact .inl (List.mem_cons_of_mem _ h)
        · rcases List.mem_cons.mp h with h | h
          · exact .inr h
          · exact .inl (List.mem_cons_of_mem _ h)
      · rcases List.mem_cons.mp h with h | h
        · exact .inl (h ▸ List.mem_cons_self)
        · exact (ih h).imp (List.mem_cons_of_mem _) id

theorem cellsFrom_write {m : List (Nat × α)} {n i : Nat} (v : α) (hm : cellsFrom n m = true) (h : n ≤ i) :
    cellsFrom n (cellWrite bg m i v) = true := by
  simp only [cellsFrom, List.all_eq_true, decide_eq_true_eq] at *
  intro c hc
  rcases mem_cellWrite bg hc with hc | rfl
  · exact hm c hc
  · exact h

/-- A write keeps the canonical form. -/
theorem cellsWf_write (m : List (Nat × α)) (hm : cellsWf bg m = true) (i : Nat) (v : α) : cellsWf bg (cellWrite bg m i v) = true := by
  induction m with
  | nil => unfold cellWrite; split <;> simp_all [cellsWf, cellsFrom]
  | cons c m ih =>
    obtain ⟨j, w⟩ := c
    have hall := hm
    simp only [cellsWf, Bool.and_eq_true, decide_eq_true_eq] at hm
    obtain ⟨⟨hw, hfrom⟩, hwf⟩ := hm
    unfold cellWrite
    split
    · rename_i hij
      split
      · exact hall
      · rename_i hv
        have hf : cellsFrom (i + 1) ((j, w) :: m) = true := by
          have := cellsFrom_mono (k := i + 1) (by omega) hfrom
          simp only [cellsFrom, List.all_cons, Bool.and_eq_true, decide_eq_true_eq]
          exact ⟨by omega, by simpa [cellsFrom] using this⟩
        have hv' : v ≠ bg i := hv
        rw [cellsWf, hf, hall]
        simp [hv']
    · split
      · rename_i e
        subst e
        split
        · exact hwf
        · rename_i hv
          have hv' : v ≠ bg i := hv
          rw [cellsWf, hfrom, hwf]
          simp [hv']
      · rename_i h1 h2
        rw [cellsWf, ih hwf, cellsFrom_write bg v hfrom (by omega)]
        simp [hw]

/-- A write inside a block keeps its size. -/
theorem cellsBelow_write (m : List (Nat × α)) (n i : Nat) (v : α) (hm : cellsBelow n m = true) (h : i < n) :
    cellsBelow n (cellWrite bg m i v) = true := by
  simp only [cellsBelow, List.all_eq_true, decide_eq_true_eq] at *
  intro c hc
  rcases mem_cellWrite bg hc with hc | rfl
  · exact hm c hc
  · exact h

theorem cellsWf_writeAll (ws m : List (Nat × α)) (hm : cellsWf bg m = true) : cellsWf bg (cellWriteAll bg m ws) = true := by
  induction ws generalizing m with
  | nil => exact hm
  | cons w ws ih => exact ih _ (cellsWf_write bg m hm w.1 w.2)

theorem cellsBelow_writeAll (n : Nat) (ws m : List (Nat × α)) (hm : cellsBelow n m = true) (hw : ∀ w ∈ ws, w.1 < n) :
    cellsBelow n (cellWriteAll bg m ws) = true := by
  induction ws generalizing m with
  | nil => exact hm
  | cons w ws ih =>
    exact ih _ (cellsBelow_write bg m n w.1 w.2 hm (hw w (by simp))) fun x hx => hw x (by simp [hx])

/-- An index no write names reads as before. -/
theorem cellRead_writeAll_other (ws m : List (Nat × α)) (k : Nat) (h : ∀ w ∈ ws, w.1 ≠ k) :
    cellRead bg (cellWriteAll bg m ws) k = cellRead bg m k := by
  induction ws generalizing m with
  | nil => rfl
  | cons w ws ih =>
    rw [show cellWriteAll bg m (w :: ws) = cellWriteAll bg (cellWrite bg m w.1 w.2) ws from rfl,
      ih _ fun x hx => h x (by simp [hx]), cellRead_write_other bg m w.1 k w.2 (Ne.symm (h w (by simp)))]

/-- An index every write to which carries `v`, and which some write names or already holds `v`, reads as `v`. -/
theorem cellRead_writeAll_const (ws m : List (Nat × α)) (hm : cellsWf bg m = true) (k : Nat) (v : α)
    (hall : ∀ w ∈ ws, w.1 = k → w.2 = v) (h : (∃ w ∈ ws, w.1 = k) ∨ cellRead bg m k = v) :
    cellRead bg (cellWriteAll bg m ws) k = v := by
  induction ws generalizing m with
  | nil =>
    rcases h with ⟨x, hx, _⟩ | h
    · simp at hx
    · exact h
  | cons w ws ih =>
    refine ih _ (cellsWf_write bg m hm w.1 w.2) (fun x hx => hall x (by simp [hx])) ?_
    by_cases hk : w.1 = k
    · right
      rw [← hall w (by simp) hk, ← hk]
      exact cellRead_write_same bg m hm w.1 w.2
    · rcases h with ⟨x, hx, hxk⟩ | h
      · left
        rcases List.mem_cons.mp hx with rfl | hx
        · exact absurd hxk hk
        · exact ⟨x, hx, hxk⟩
      · right
        rw [cellRead_write_other bg m w.1 k w.2 (Ne.symm hk)]
        exact h

/-- Writing a list of values from index `i` up that equal their background to an empty block lists nothing. -/
theorem cellWriteAll_background (n i : Nat) : cellWriteAll bg [] (indexedFrom i ((List.range' i n).map bg)) = [] := by
  induction n generalizing i with
  | zero => rfl
  | succ n ih =>
    rw [List.range'_succ, List.map_cons, indexedFrom, cellWriteAll, cellWrite, if_pos rfl]
    exact ih (i + 1)

/-- A block given its own background lists nothing. -/
theorem cellsOf_background (n : Nat) : cellsOf bg ((List.range n).map bg) = [] := by
  rw [List.range_eq_range']; exact cellWriteAll_background bg n 0

/-- Writing a list from index `n` up leaves each value at its index, and every other index as it was. -/
theorem cellRead_writeAll_indexed (vs : List α) (n : Nat) (m : List (Nat × α)) (hm : cellsWf bg m = true) (i : Nat) :
    cellRead bg (cellWriteAll bg m (indexedFrom n vs)) i = if n ≤ i then (vs[i - n]?).getD (cellRead bg m i) else cellRead bg m i := by
  induction vs generalizing n m with
  | nil => simp [indexedFrom, cellWriteAll]
  | cons v vs ih =>
    rw [indexedFrom, cellWriteAll, ih (n + 1) _ (cellsWf_write bg m hm n v), cellRead_write bg m hm]
    rcases Nat.lt_trichotomy i n with h | h | h
    · rw [if_neg (by omega), if_neg (by omega), if_neg (by omega)]
    · subst h; simp
    · obtain ⟨k, rfl⟩ : ∃ k, i = n + 1 + k := ⟨i - (n + 1), by omega⟩
      rw [if_pos (by omega), if_neg (by omega), if_pos (by omega), show n + 1 + k - n = k + 1 by omega,
        show n + 1 + k - (n + 1) = k by omega, List.getElem?_cons_succ]

/-- The block built from a list reads as the list, and as its background past the list's end. -/
theorem cellRead_of (vs : List α) (i : Nat) : cellRead bg (cellsOf bg vs) i = (vs[i]?).getD (bg i) := by
  rw [cellsOf, cellRead_writeAll_indexed bg vs 0 [] rfl, if_pos (Nat.zero_le i), Nat.sub_zero, cellRead_nil]

theorem cellsWf_of (vs : List α) : cellsWf bg (cellsOf bg vs) = true := cellsWf_writeAll bg _ [] rfl

theorem cellsBelow_of (vs : List α) : cellsBelow vs.length (cellsOf bg vs) = true :=
  cellsBelow_writeAll bg _ _ [] rfl fun w hw => by have := indexedFrom_bounds 0 vs w hw; omega

/-- Two canonical blocks that read alike are the same list. -/
theorem cells_ext (m m' : List (Nat × α)) (hm : cellsWf bg m = true) (hm' : cellsWf bg m' = true)
    (h : ∀ i, cellRead bg m i = cellRead bg m' i) : m = m' := by
  induction m generalizing m' with
  | nil =>
    cases m' with
    | nil => rfl
    | cons d m' =>
      obtain ⟨j, w⟩ := d
      simp only [cellsWf, Bool.and_eq_true, decide_eq_true_eq] at hm'
      have := h j
      simp only [cellRead, if_true] at this
      exact absurd this.symm hm'.1.1
  | cons c m ih =>
    obtain ⟨i, v⟩ := c
    simp only [cellsWf, Bool.and_eq_true, decide_eq_true_eq] at hm
    obtain ⟨⟨hv, hf⟩, hw⟩ := hm
    cases m' with
    | nil =>
      have := h i
      simp only [cellRead, if_true] at this
      exact absurd this hv
    | cons d m' =>
      obtain ⟨j, w⟩ := d
      simp only [cellsWf, Bool.and_eq_true, decide_eq_true_eq] at hm'
      obtain ⟨⟨hv', hf'⟩, hw'⟩ := hm'
      have hij : i = j := by
        rcases lt_trichotomy i j with hlt | he | hgt
        · have := h i
          simp only [cellRead, if_true, Nat.ne_of_lt hlt, if_false] at this
          rw [cellRead_below bg hf' (by omega)] at this
          exact absurd this hv
        · exact he
        · have := h j
          simp only [cellRead, if_true, Nat.ne_of_lt hgt, if_false] at this
          rw [cellRead_below bg hf (by omega)] at this
          exact absurd this.symm hv'
      subst hij
      have hvw : v = w := by
        have := h i
        simpa only [cellRead, if_true] using this
      subst hvw
      rw [ih m' hw hw' fun k => ?_]
      by_cases hk : k = i
      · subst hk
        rw [cellRead_below bg hf (by omega), cellRead_below bg hf' (by omega)]
      · have := h k
        simpa only [cellRead, hk, if_false] using this

end Sys2Proof.Machine
end

