-- ==== Sys2Proof/Laws/Decode.lean ====
section
/-! SUPPORT. What a presented row's signals read as, and that presenting keeps a word canonical. -/

namespace Sys2Proof

/-- A bit after a row of set fields: `Bus.bit` goes through every set field. -/
theorem Bus.bit_setAddr_out (n : Nat) (a : Addr) (p : Pins) (h : n < 64) (ho : 16 ≤ n) :
    Bus.bit n (Bus.setAddr a p) = Bus.bit n p := Bus.bit_setField_out n 0 a p h (Or.inr ho)

theorem Bus.bit_setData_out (n : Nat) (d : Byte) (p : Pins) (h : n < 64) (ho : n < 16 ∨ 24 ≤ n) :
    Bus.bit n (Bus.setData d p) = Bus.bit n p := Bus.bit_setField_out n 16 d p h ho

theorem Bus.data_setData (d : Byte) (p : Pins) : Bus.data (Bus.setData d p) = d := Bus.field_setField_same 16 d p (by omega)

theorem Bus.addr_setAddr (a : Addr) (p : Pins) : Bus.addr (Bus.setAddr a p) = a := Bus.field_setField_same 0 a p (by omega)

/-- A set data field leaves every signal but D. -/
theorem Bus.addr_setData (d : Byte) (p : Pins) : Bus.addr (Bus.setData d p) = Bus.addr p :=
  Bus.field_setField_other 0 16 16 d p (by omega) (by omega)

theorem Bus.data_setAddr (a : Addr) (p : Pins) : Bus.data (Bus.setAddr a p) = Bus.data p :=
  Bus.field_setField_other 16 8 0 a p (by omega) (by omega)

theorem Bus.data_setBit (n : Nat) (b : Bool) (p : Pins) (h : n < 16 ∨ 24 ≤ n) : Bus.data (Bus.setBit n b p) = Bus.data p :=
  Bus.field_setBit_other 16 8 n b p (by omega) (by omega)

theorem Bus.addr_setBit (n : Nat) (b : Bool) (p : Pins) (h : 16 ≤ n) : Bus.addr (Bus.setBit n b p) = Bus.addr p :=
  Bus.field_setBit_other 0 16 n b p (by omega) (by omega)

/-- The device-decode bits of a word whose select field was set. -/
theorem Bus.aSel_setField (sel : BitVec 5) (p : Pins) : Bus.aSel (Bus.setField 3 sel p) = sel :=
  Bus.field_setField_same 3 sel p (by omega)

theorem presentMem_mreq (rd wr : Bool) (a : Addr) (p : Pins) : Bus.mreq (presentMem rd wr a p) = true := by
  simp [presentMem, Bus.mreq, Bus.setAddr, Bus.bit_setBit_other, Bus.bit_setBit_same, Bus.bit_setField_out]

theorem presentMem_rd (rd wr : Bool) (a : Addr) (p : Pins) : Bus.rd (presentMem rd wr a p) = rd := by
  simp [presentMem, Bus.rd, Bus.bit_setBit_other, Bus.bit_setBit_same]

theorem presentMem_wr (rd wr : Bool) (a : Addr) (p : Pins) : Bus.wr (presentMem rd wr a p) = wr := by
  simp [presentMem, Bus.wr, Bus.bit_setBit_same]

theorem presentMem_addr (rd wr : Bool) (a : Addr) (p : Pins) : Bus.addr (presentMem rd wr a p) = a := by
  simp [presentMem, Bus.addr_setBit, Bus.addr_setAddr]

theorem presentIo_iorq (sel : BitVec 5) (reg : BitVec 2) (d : Byte) (rd wr : Bool) (p : Pins) :
    Bus.iorq (presentIo sel reg d rd wr p) = true := by
  simp [presentIo, Bus.iorq, Bus.setData, Bus.bit_setBit_other, Bus.bit_setBit_same, Bus.bit_setField_out]

theorem presentIo_aSel (sel : BitVec 5) (reg : BitVec 2) (d : Byte) (rd wr : Bool) (p : Pins) :
    Bus.aSel (presentIo sel reg d rd wr p) = sel := by
  simp [presentIo, Bus.aSel, Bus.setData, Bus.field_setBit_other, Bus.field_setField_other, Bus.field_setField_same]

theorem presentIo_a0 (sel : BitVec 5) (reg : BitVec 2) (d : Byte) (rd wr : Bool) (p : Pins) :
    Bus.a0 (presentIo sel reg d rd wr p) = reg.getLsbD 0 := by
  simp [presentIo, Bus.a0, Bus.setData, Bus.bit_setBit_other, Bus.bit_setField_out, Bus.bit_setField_in]

theorem presentIo_a1 (sel : BitVec 5) (reg : BitVec 2) (d : Byte) (rd wr : Bool) (p : Pins) :
    Bus.a1 (presentIo sel reg d rd wr p) = reg.getLsbD 1 := by
  simp [presentIo, Bus.a1, Bus.setData, Bus.bit_setBit_other, Bus.bit_setField_out, Bus.bit_setField_in]

theorem presentIo_data (sel : BitVec 5) (reg : BitVec 2) (d : Byte) (rd wr : Bool) (p : Pins) :
    Bus.data (presentIo sel reg d rd wr p) = d := by
  simp [presentIo, Bus.data_setBit, Bus.data_setData]

theorem presentIo_rd (sel : BitVec 5) (reg : BitVec 2) (d : Byte) (rd wr : Bool) (p : Pins) :
    Bus.rd (presentIo sel reg d rd wr p) = rd := by
  simp [presentIo, Bus.rd, Bus.bit_setBit_other, Bus.bit_setBit_same]

theorem presentIo_wr (sel : BitVec 5) (reg : BitVec 2) (d : Byte) (rd wr : Bool) (p : Pins) :
    Bus.wr (presentIo sel reg d rd wr p) = wr := by
  simp [presentIo, Bus.wr, Bus.bit_setBit_same]

theorem presentIo_m1 (sel : BitVec 5) (reg : BitVec 2) (d : Byte) (rd wr : Bool) (p : Pins) :
    Bus.m1 (presentIo sel reg d rd wr p) = Bus.m1 p := by
  unfold Bus.m1 presentIo
  rw [Bus.bit_setBit_other _ _ (by omega) _ _ (by omega), Bus.bit_setBit_other _ _ (by omega) _ _ (by omega),
    Bus.bit_setData_out _ _ _ (by omega) (by omega), Bus.bit_setField_out _ _ _ _ (by omega) (by omega),
    Bus.bit_setField_out _ _ _ _ (by omega) (by omega), Bus.bit_setBit_other _ _ (by omega) _ _ (by omega)]

theorem presentUnmapped_iorq (sel : BitVec 5) (d : Byte) (rd wr : Bool) (p : Pins) :
    Bus.iorq (presentUnmapped sel d rd wr p) = true := by
  simp [presentUnmapped, Bus.iorq, Bus.setData, Bus.bit_setBit_other, Bus.bit_setBit_same, Bus.bit_setField_out]

theorem presentUnmapped_aSel (sel : BitVec 5) (d : Byte) (rd wr : Bool) (p : Pins) :
    Bus.aSel (presentUnmapped sel d rd wr p) = sel := by
  simp [presentUnmapped, Bus.aSel, Bus.setData, Bus.field_setBit_other, Bus.field_setField_other, Bus.field_setField_same]

theorem presentUnmapped_data (sel : BitVec 5) (d : Byte) (rd wr : Bool) (p : Pins) :
    Bus.data (presentUnmapped sel d rd wr p) = d := by
  simp [presentUnmapped, Bus.data_setBit, Bus.data_setData]

theorem presentUnmapped_rd (sel : BitVec 5) (d : Byte) (rd wr : Bool) (p : Pins) :
    Bus.rd (presentUnmapped sel d rd wr p) = rd := by
  simp [presentUnmapped, Bus.rd, Bus.bit_setBit_other, Bus.bit_setBit_same]

theorem presentUnmapped_wr (sel : BitVec 5) (d : Byte) (rd wr : Bool) (p : Pins) :
    Bus.wr (presentUnmapped sel d rd wr p) = wr := by
  simp [presentUnmapped, Bus.wr, Bus.bit_setBit_same]

/-- A select bit of an unmapped port's word. -/
theorem presentUnmapped_bit (sel : BitVec 5) (d : Byte) (rd wr : Bool) (p : Pins) (n : Nat) (h : 3 ≤ n ∧ n < 8) :
    Bus.bit n (presentUnmapped sel d rd wr p) = sel.getLsbD (n - 3) := by
  have h1 : n < 64 := by omega
  have h2 : n ≠ 28 := by omega
  have h3 : n ≠ 27 := by omega
  simp only [presentUnmapped, Bus.setData, Bus.bit_setBit_other n _ h1 _ _ h2, Bus.bit_setBit_other n _ h1 _ _ h3]
  rw [Bus.bit_setField_out n 16 d _ h1 (by omega), Bus.bit_setField_in n 3 sel _ h1 (by omega)]

/-- A field of low select bits of an unmapped port's word. -/
theorem presentUnmapped_field (sel : BitVec 5) (d : Byte) (rd wr : Bool) (p : Pins) (w : Nat) (h : w ≤ 5) :
    Bus.field 3 w (presentUnmapped sel d rd wr p) = sel.setWidth w := by
  apply BitVec.eq_of_getLsbD_eq
  intro i hi
  rw [Bus.getLsbD_field]
  have := presentUnmapped_bit sel d rd wr p (3 + i) (by omega)
  rw [Bus.bit] at this
  rw [this, BitVec.getLsbD_setWidth]
  simp

theorem present_inta_m1 (P : Params) (a : Addr) (p : Pins) : Bus.m1 (present P (.inta a) p) = true := by
  simp [present, Bus.m1, Bus.setAddr, Bus.bit_setBit_other, Bus.bit_setBit_same, Bus.bit_setField_out]

theorem present_inta_iorq (P : Params) (a : Addr) (p : Pins) : Bus.iorq (present P (.inta a) p) = true := by
  simp [present, Bus.iorq, Bus.setAddr, Bus.bit_setBit_same, Bus.bit_setField_out]

theorem present_inta_addr (P : Params) (a : Addr) (p : Pins) : Bus.addr (present P (.inta a) p) = a := by
  simp [present, Bus.addr_setAddr]

theorem presentMem_canonical (rd wr : Bool) (a : Addr) (p : Pins) (h : Bus.Canonical p) : Bus.Canonical (presentMem rd wr a p) := by
  refine Bus.canonical_setBit _ _ _ (Bus.canonical_setBit _ _ _ (Bus.canonical_setField _ _ _ (Bus.canonical_setBit _ _ _ h ?_) ?_) ?_) ?_
  all_goals decide

theorem presentIo_canonical (sel : BitVec 5) (reg : BitVec 2) (d : Byte) (rd wr : Bool) (p : Pins) (h : Bus.Canonical p) :
    Bus.Canonical (presentIo sel reg d rd wr p) := by
  refine Bus.canonical_setBit _ _ _ (Bus.canonical_setBit _ _ _ (Bus.canonical_setField _ _ _ (Bus.canonical_setField _ _ _
    (Bus.canonical_setField _ _ _ (Bus.canonical_setBit _ _ _ h ?_) ?_) ?_) ?_) ?_) ?_
  all_goals decide

theorem presentUnmapped_canonical (sel : BitVec 5) (d : Byte) (rd wr : Bool) (p : Pins) (h : Bus.Canonical p) :
    Bus.Canonical (presentUnmapped sel d rd wr p) := by
  refine Bus.canonical_setBit _ _ _ (Bus.canonical_setBit _ _ _ (Bus.canonical_setField _ _ _
    (Bus.canonical_setField _ _ _ (Bus.canonical_setBit _ _ _ h ?_) ?_) ?_) ?_) ?_
  all_goals decide

/-- Presenting any row keeps a word canonical: no row touches a device-local bit. -/
theorem present_canonical (P : Params) (i : Instr) (p : Pins) (h : Bus.Canonical p) : Bus.Canonical (present P i p) := by
  cases i with
  | memNone => exact Bus.canonical_setBit _ _ _ h (by decide)
  | memRd a => exact presentMem_canonical _ _ _ _ h
  | memWr a d => exact Bus.canonical_setField _ _ _ (presentMem_canonical _ _ _ _ h) (by decide)
  | memNoacc a => exact presentMem_canonical _ _ _ _ h
  | memRdwr a => exact presentMem_canonical _ _ _ _ h
  | ioNone => exact Bus.canonical_setBit _ _ _ h (by decide)
  | ioUnmappedLo low d rd wr => exact presentUnmapped_canonical _ _ _ _ _ h
  | ioUnmappedHi low d rd wr => exact presentUnmapped_canonical _ _ _ _ _ h
  | ioUnmappedA0 low d rd wr => exact presentUnmapped_canonical _ _ _ _ _ h
  | ioUnmapped98 low d rd wr => exact presentUnmapped_canonical _ _ _ _ _ h
  | inta a =>
    exact Bus.canonical_setField _ _ _ (Bus.canonical_setBit _ _ _ (Bus.canonical_setBit _ _ _ h (by decide)) (by decide)) (by decide)
  | reti => exact Bus.canonical_setBit _ _ _ h (by decide)
  | _ => exact presentIo_canonical _ _ _ _ _ _ h

/-- The memory group as a chain of tests. -/
theorem decodeMem_eq (p : Pins) : decodeMem p =
    if Bus.mreq p = false then .memNone
    else if Bus.rd p then (if Bus.wr p then .memRdwr (Bus.addr p) else .memRd (Bus.addr p))
    else (if Bus.wr p then .memWr (Bus.addr p) (Bus.data p) else .memNoacc (Bus.addr p)) := by
  unfold decodeMem
  cases Bus.mreq p <;> cases Bus.rd p <;> cases Bus.wr p <;> rfl

/-- The I/O row of a word that selects a device. -/
theorem decodeIo_presentIo (P : Params) (sel : BitVec 5) (reg : BitVec 2) (d : Byte) (rd wr : Bool) (p : Pins) :
    decodeIo P (presentIo sel reg d rd wr p) =
      if sel = P.pio1Sel then decodeReg .pio1DataA .pio1DataB .pio1CtrlA .pio1CtrlB (presentIo sel reg d rd wr p)
      else if sel = P.pio2Sel then decodeReg .pio2DataA .pio2DataB .pio2CtrlA .pio2CtrlB (presentIo sel reg d rd wr p)
      else if sel = P.ctcSel then decodeReg .ctcCh0 .ctcCh1 .ctcCh2 .ctcCh3 (presentIo sel reg d rd wr p)
      else decodeUnmapped (presentIo sel reg d rd wr p) := by
  simp only [decodeIo, presentIo_iorq, presentIo_aSel, Bool.true_eq_false, if_false]

/-- The register row of a presented device row. -/
theorem decodeReg_presentIo (r0 r1 r2 r3 : Byte → Bool → Bool → Instr) (sel : BitVec 5) (reg : BitVec 2) (d : Byte) (rd wr : Bool)
    (p : Pins) : decodeReg r0 r1 r2 r3 (presentIo sel reg d rd wr p) =
      if reg = 0#2 then r0 d rd wr else if reg = 1#2 then r1 d rd wr else if reg = 2#2 then r2 d rd wr else r3 d rd wr := by
  simp only [decodeReg, presentIo_a0, presentIo_a1, presentIo_data, presentIo_rd, presentIo_wr]
  have : reg = 0#2 ∨ reg = 1#2 ∨ reg = 2#2 ∨ reg = 3#2 := by revert reg; decide
  rcases this with rfl | rfl | rfl | rfl <;> rfl

/-- The I/O row of a presented unmapped row. -/
theorem decodeIo_presentUnmapped (P : Params) (sel : BitVec 5) (d : Byte) (rd wr : Bool) (p : Pins) (h : P.NoDevice sel) :
    decodeIo P (presentUnmapped sel d rd wr p) =
      match sel.getLsbD 4, sel.getLsbD 3, sel.getLsbD 2 with
      | false, _, _ => .ioUnmappedLo (sel.setWidth 4) d rd wr
      | true, true, _ => .ioUnmappedHi (sel.setWidth 3) d rd wr
      | true, false, true => .ioUnmappedA0 (sel.setWidth 2) d rd wr
      | true, false, false => .ioUnmapped98 (sel.setWidth 2) d rd wr := by
  have h7 : Bus.bit 7 (presentUnmapped sel d rd wr p) = sel.getLsbD 4 := presentUnmapped_bit sel d rd wr p 7 (by omega)
  have h6 : Bus.bit 6 (presentUnmapped sel d rd wr p) = sel.getLsbD 3 := presentUnmapped_bit sel d rd wr p 6 (by omega)
  have h5 : Bus.bit 5 (presentUnmapped sel d rd wr p) = sel.getLsbD 2 := presentUnmapped_bit sel d rd wr p 5 (by omega)
  simp only [decodeIo, presentUnmapped_iorq, presentUnmapped_aSel, Bool.true_eq_false, if_false, h.1, h.2.1, h.2.2, decodeUnmapped, h7, h6,
    h5, presentUnmapped_data, presentUnmapped_rd, presentUnmapped_wr, presentUnmapped_field _ _ _ _ _ 4 (by omega),
    presentUnmapped_field _ _ _ _ _ 3 (by omega), presentUnmapped_field _ _ _ _ _ 2 (by omega)]
  all_goals cases sel.getLsbD 4 <;> cases sel.getLsbD 3 <;> cases sel.getLsbD 2 <;> rfl

/-- A presented memory row decodes to itself. -/
theorem decodeMem_present (P : Params) (i : Instr) (p : Pins) (h : isMemoryRow i = true) : decodeMem (present P i p) = i := by
  cases i <;> first | (exfalso; revert h; exact Bool.false_ne_true) | skip
  · rw [decodeMem_eq, if_pos]; exact Bus.bit_setBit_same 25 (by omega) _ _
  · simp only [decodeMem_eq, present, presentMem_mreq, presentMem_rd, presentMem_wr, presentMem_addr]; rfl
  · rename_i a d
    have h1 : Bus.mreq (Bus.setData d (presentMem false true a p)) = true := by
      rw [Bus.mreq, Bus.bit_setData_out _ _ _ (by omega) (by omega)]; exact presentMem_mreq ..
    have h4: Bus.rd (Bus.setData d (presentMem false true a p)) = false := by
      rw [Bus.rd, Bus.bit_setData_out _ _ _ (by omega) (by omega)]; exact presentMem_rd ..
    have h5 : Bus.wr (Bus.setData d (presentMem false true a p)) = true := by
      rw [Bus.wr, Bus.bit_setData_out _ _ _ (by omega) (by omega)]; exact presentMem_wr ..
    simp only [decodeMem_eq, present, h1, h4, h5, Bus.data_setData, Bus.addr_setData, presentMem_addr]; rfl
  · simp only [decodeMem_eq, present, presentMem_mreq, presentMem_rd, presentMem_wr, presentMem_addr]; rfl
  · simp only [decodeMem_eq, present, presentMem_mreq, presentMem_rd, presentMem_wr, presentMem_addr]; rfl

/-- A memory request presented with its own fields is itself. -/
theorem presentMem_self (p : Pins) (h : Bus.mreq p = true) : presentMem (Bus.rd p) (Bus.wr p) (Bus.addr p) p = p := by
  rw [presentMem, Bus.setBit_self 25 (by omega) true p h, Bus.setAddr, Bus.setField_self 0 (Bus.addr p) p rfl,
    Bus.setBit_self 27 (by omega) (Bus.rd p) p rfl, Bus.setBit_self 28 (by omega) (Bus.wr p) p rfl]

/-- An I/O request presented with its own fields is itself. -/
theorem presentIo_self (sel : BitVec 5) (reg : BitVec 2) (p : Pins) (h : Bus.iorq p = true) (hs : Bus.aSel p = sel)
    (hr : Bus.reg p = reg) : presentIo sel reg (Bus.data p) (Bus.rd p) (Bus.wr p) p = p := by
  rw [presentIo, Bus.setBit_self 26 (by omega) true p h, Bus.setField_self 3 _ p hs, Bus.setField_self 0 _ p hr, Bus.setData,
    Bus.setField_self 16 (Bus.data p) p rfl, Bus.setBit_self 27 (by omega) (Bus.rd p) p rfl, Bus.setBit_self 28 (by omega) (Bus.wr p) p rfl]

theorem presentUnmapped_self (p : Pins) (h : Bus.iorq p = true) :
    presentUnmapped (Bus.aSel p) (Bus.data p) (Bus.rd p) (Bus.wr p) p = p := by
  rw [presentUnmapped, Bus.setBit_self 26 (by omega) true p h, Bus.setField_self 3 (Bus.aSel p) p rfl, Bus.setData,
    Bus.setField_self 16 (Bus.data p) p rfl, Bus.setBit_self 27 (by omega) (Bus.rd p) p rfl, Bus.setBit_self 28 (by omega) (Bus.wr p) p rfl]

/-- The register number, by its two bits. -/
theorem Bus.reg_cases (p : Pins) : Bus.reg p = match Bus.a1 p, Bus.a0 p with
    | false, false => 0#2 | false, true => 1#2 | true, false => 2#2 | true, true => 3#2 := by
  have h0 : (Bus.reg p).getLsbD 0 = Bus.a0 p := by rw [Bus.reg, Bus.getLsbD_field]; rfl
  have h1 : (Bus.reg p).getLsbD 1 = Bus.a1 p := by rw [Bus.reg, Bus.getLsbD_field]; rfl
  rw [← h0, ← h1]
  generalize Bus.reg p = r
  revert r; decide

/-- The unmapped row a word decodes to carries the word's own select bits. -/
theorem unmappedSel_decodeUnmapped (p : Pins) : (decodeUnmapped p).unmappedSel = some (Bus.aSel p) ∧
    ∀ P, present P (decodeUnmapped p) p = presentUnmapped (Bus.aSel p) (Bus.data p) (Bus.rd p) (Bus.wr p) p := by
  have e : ∀ x : BitVec 5, x = (match x.getLsbD 4, x.getLsbD 3, x.getLsbD 2 with
    | false, _, _ => 0#1 ++ x.setWidth 4
    | true, true, _ => 3#2 ++ x.setWidth 3
    | true, false, true => 5#3 ++ x.setWidth 2
    | true, false, false => 4#3 ++ x.setWidth 2 : BitVec 5) := by decide
  have f : ∀ w, w ≤ 5 → Bus.field 3 w p = (Bus.aSel p).setWidth w := by
    intro w hw
    apply BitVec.eq_of_getLsbD_eq
    intro i hi
    simp only [Bus.aSel, BitVec.getLsbD_setWidth, Bus.getLsbD_field]
    have : i < 5 := by omega
    simp [hi, this]
  have g : ∀ n, 3 ≤ n → n < 8 → Bus.bit n p = (Bus.aSel p).getLsbD (n-3) := by
    intro n h1 h2
    rw [Bus.aSel, Bus.getLsbD_field, Bus.bit, show 3 + (n-3) = n by omega]
    have : n - 3 < 5 := by omega
    simp [this]
  have e' := e (Bus.aSel p)
  simp only [decodeUnmapped, g 7 (by omega) (by omega), g 6 (by omega) (by omega), g 5 (by omega) (by omega),
    f 4 (by omega), f 3 (by omega), f 2 (by omega)]
  revert e'
  generalize Bus.aSel p = x
  cases h4 : x.getLsbD 4 <;> cases h3 : x.getLsbD 3 <;> cases h2 : x.getLsbD 2 <;> intro e' <;> constructor <;>
    first | exact congrArg some e'.symm | (intro P; exact congrArg (presentUnmapped · (Bus.data p) (Bus.rd p) (Bus.wr p) p) e'.symm)

end Sys2Proof
end

