-- ==== Sys2Proof/Laws/State.lean ====
section
/-! SUPPORT. What each named operation leaves unchanged, field by field, and what the simple ones write: every lemma is true by
unfolding once, so that no later proof unfolds a record update. -/

namespace Sys2Proof.Machine

@[simp] theorem memWrite_valid (s : State) (a : Addr) (v : Byte) : (memWrite s a v).valid = s.valid := rfl
@[simp] theorem memWrite_params (s : State) (a : Addr) (v : Byte) : (memWrite s a v).params = s.params := rfl
@[simp] theorem memWrite_variant (s : State) (a : Addr) (v : Byte) : (memWrite s a v).variant = s.variant := rfl
@[simp] theorem memWrite_cpu (s : State) (a : Addr) (v : Byte) : (memWrite s a v).cpu = s.cpu := rfl
@[simp] theorem memWrite_pins (s : State) (a : Addr) (v : Byte) : (memWrite s a v).pins = s.pins := rfl
@[simp] theorem memWrite_ctcCascade (s : State) (a : Addr) (v : Byte) : (memWrite s a v).ctcCascade = s.ctcCascade := rfl
@[simp] theorem memWrite_pio1 (s : State) (a : Addr) (v : Byte) : (memWrite s a v).pio1 = s.pio1 := rfl
@[simp] theorem memWrite_pio2 (s : State) (a : Addr) (v : Byte) : (memWrite s a v).pio2 = s.pio2 := rfl
@[simp] theorem memWrite_ctc (s : State) (a : Addr) (v : Byte) : (memWrite s a v).ctc = s.ctc := rfl
@[simp] theorem memWrite_beeper (s : State) (a : Addr) (v : Byte) : (memWrite s a v).beeper = s.beeper := rfl
@[simp] theorem memWrite_kbd (s : State) (a : Addr) (v : Byte) : (memWrite s a v).kbd = s.kbd := rfl
@[simp] theorem memWrite_map (s : State) (a : Addr) (v : Byte) : (memWrite s a v).map = s.map := rfl
@[simp] theorem memWrite_rom (s : State) (a : Addr) (v : Byte) : (memWrite s a v).rom = s.rom := rfl
@[simp] theorem memWrite_font (s : State) (a : Addr) (v : Byte) : (memWrite s a v).font = s.font := rfl
@[simp] theorem memWrite_fb (s : State) (a : Addr) (v : Byte) : (memWrite s a v).fb = s.fb := rfl
@[simp] theorem memWrite_blinkCounter (s : State) (a : Addr) (v : Byte) : (memWrite s a v).blinkCounter = s.blinkCounter := rfl
@[simp] theorem memWrite_blinkFF (s : State) (a : Addr) (v : Byte) : (memWrite s a v).blinkFF = s.blinkFF := rfl
@[simp] theorem memWrite_audioBuf (s : State) (a : Addr) (v : Byte) : (memWrite s a v).audioBuf = s.audioBuf := rfl
@[simp] theorem memWrite_audioPos (s : State) (a : Addr) (v : Byte) : (memWrite s a v).audioPos = s.audioPos := rfl
@[simp] theorem memWrite_audioN (s : State) (a : Addr) (v : Byte) : (memWrite s a v).audioN = s.audioN := rfl
@[simp] theorem memWrite_clkRem (s : State) (a : Addr) (v : Byte) : (memWrite s a v).clkRem = s.clkRem := rfl
@[simp] theorem memWrite_hook (s : State) (a : Addr) (v : Byte) : (memWrite s a v).hook = s.hook := rfl
@[simp] theorem memWrite_audioCfg (s : State) (a : Addr) (v : Byte) : (memWrite s a v).audioCfg = s.audioCfg := rfl
@[simp] theorem memWrite_events (s : State) (a : Addr) (v : Byte) : (memWrite s a v).events = s.events := rfl
@[simp] theorem memWrite_draws (s : State) (a : Addr) (v : Byte) : (memWrite s a v).draws = s.draws := rfl
@[simp] theorem memWrite_audioFill (s : State) (a : Addr) (v : Byte) : (memWrite s a v).audioFill = s.audioFill := rfl

@[simp] theorem cpuPhase_valid (C : Collaborators) (s : State) : (cpuPhase C s).valid = s.valid := rfl
@[simp] theorem cpuPhase_params (C : Collaborators) (s : State) : (cpuPhase C s).params = s.params := rfl
@[simp] theorem cpuPhase_variant (C : Collaborators) (s : State) : (cpuPhase C s).variant = s.variant := rfl
@[simp] theorem cpuPhase_ctcCascade (C : Collaborators) (s : State) : (cpuPhase C s).ctcCascade = s.ctcCascade := rfl
@[simp] theorem cpuPhase_pio1 (C : Collaborators) (s : State) : (cpuPhase C s).pio1 = s.pio1 := rfl
@[simp] theorem cpuPhase_pio2 (C : Collaborators) (s : State) : (cpuPhase C s).pio2 = s.pio2 := rfl
@[simp] theorem cpuPhase_ctc (C : Collaborators) (s : State) : (cpuPhase C s).ctc = s.ctc := rfl
@[simp] theorem cpuPhase_beeper (C : Collaborators) (s : State) : (cpuPhase C s).beeper = s.beeper := rfl
@[simp] theorem cpuPhase_kbd (C : Collaborators) (s : State) : (cpuPhase C s).kbd = s.kbd := rfl
@[simp] theorem cpuPhase_map (C : Collaborators) (s : State) : (cpuPhase C s).map = s.map := rfl
@[simp] theorem cpuPhase_ram (C : Collaborators) (s : State) : (cpuPhase C s).ram = s.ram := rfl
@[simp] theorem cpuPhase_rom (C : Collaborators) (s : State) : (cpuPhase C s).rom = s.rom := rfl
@[simp] theorem cpuPhase_font (C : Collaborators) (s : State) : (cpuPhase C s).font = s.font := rfl
@[simp] theorem cpuPhase_fb (C : Collaborators) (s : State) : (cpuPhase C s).fb = s.fb := rfl
@[simp] theorem cpuPhase_blinkCounter (C : Collaborators) (s : State) : (cpuPhase C s).blinkCounter = s.blinkCounter := rfl
@[simp] theorem cpuPhase_blinkFF (C : Collaborators) (s : State) : (cpuPhase C s).blinkFF = s.blinkFF := rfl
@[simp] theorem cpuPhase_audioBuf (C : Collaborators) (s : State) : (cpuPhase C s).audioBuf = s.audioBuf := rfl
@[simp] theorem cpuPhase_audioPos (C : Collaborators) (s : State) : (cpuPhase C s).audioPos = s.audioPos := rfl
@[simp] theorem cpuPhase_audioN (C : Collaborators) (s : State) : (cpuPhase C s).audioN = s.audioN := rfl
@[simp] theorem cpuPhase_clkRem (C : Collaborators) (s : State) : (cpuPhase C s).clkRem = s.clkRem := rfl
@[simp] theorem cpuPhase_hook (C : Collaborators) (s : State) : (cpuPhase C s).hook = s.hook := rfl
@[simp] theorem cpuPhase_audioCfg (C : Collaborators) (s : State) : (cpuPhase C s).audioCfg = s.audioCfg := rfl
@[simp] theorem cpuPhase_events (C : Collaborators) (s : State) : (cpuPhase C s).events = s.events := rfl
@[simp] theorem cpuPhase_draws (C : Collaborators) (s : State) : (cpuPhase C s).draws = s.draws := rfl
@[simp] theorem cpuPhase_audioFill (C : Collaborators) (s : State) : (cpuPhase C s).audioFill = s.audioFill := rfl

@[simp] theorem pio1Stage_valid (C : Collaborators) (s : State) : (pio1Stage C s).valid = s.valid := rfl
@[simp] theorem pio1Stage_params (C : Collaborators) (s : State) : (pio1Stage C s).params = s.params := rfl
@[simp] theorem pio1Stage_variant (C : Collaborators) (s : State) : (pio1Stage C s).variant = s.variant := rfl
@[simp] theorem pio1Stage_cpu (C : Collaborators) (s : State) : (pio1Stage C s).cpu = s.cpu := rfl
@[simp] theorem pio1Stage_ctcCascade (C : Collaborators) (s : State) : (pio1Stage C s).ctcCascade = s.ctcCascade := rfl
@[simp] theorem pio1Stage_pio2 (C : Collaborators) (s : State) : (pio1Stage C s).pio2 = s.pio2 := rfl
@[simp] theorem pio1Stage_ctc (C : Collaborators) (s : State) : (pio1Stage C s).ctc = s.ctc := rfl
@[simp] theorem pio1Stage_beeper (C : Collaborators) (s : State) : (pio1Stage C s).beeper = s.beeper := rfl
@[simp] theorem pio1Stage_kbd (C : Collaborators) (s : State) : (pio1Stage C s).kbd = s.kbd := rfl
@[simp] theorem pio1Stage_map (C : Collaborators) (s : State) : (pio1Stage C s).map = s.map := rfl
@[simp] theorem pio1Stage_ram (C : Collaborators) (s : State) : (pio1Stage C s).ram = s.ram := rfl
@[simp] theorem pio1Stage_rom (C : Collaborators) (s : State) : (pio1Stage C s).rom = s.rom := rfl
@[simp] theorem pio1Stage_font (C : Collaborators) (s : State) : (pio1Stage C s).font = s.font := rfl
@[simp] theorem pio1Stage_fb (C : Collaborators) (s : State) : (pio1Stage C s).fb = s.fb := rfl
@[simp] theorem pio1Stage_blinkCounter (C : Collaborators) (s : State) : (pio1Stage C s).blinkCounter = s.blinkCounter := rfl
@[simp] theorem pio1Stage_blinkFF (C : Collaborators) (s : State) : (pio1Stage C s).blinkFF = s.blinkFF := rfl
@[simp] theorem pio1Stage_audioBuf (C : Collaborators) (s : State) : (pio1Stage C s).audioBuf = s.audioBuf := rfl
@[simp] theorem pio1Stage_audioPos (C : Collaborators) (s : State) : (pio1Stage C s).audioPos = s.audioPos := rfl
@[simp] theorem pio1Stage_audioN (C : Collaborators) (s : State) : (pio1Stage C s).audioN = s.audioN := rfl
@[simp] theorem pio1Stage_clkRem (C : Collaborators) (s : State) : (pio1Stage C s).clkRem = s.clkRem := rfl
@[simp] theorem pio1Stage_hook (C : Collaborators) (s : State) : (pio1Stage C s).hook = s.hook := rfl
@[simp] theorem pio1Stage_audioCfg (C : Collaborators) (s : State) : (pio1Stage C s).audioCfg = s.audioCfg := rfl
@[simp] theorem pio1Stage_events (C : Collaborators) (s : State) : (pio1Stage C s).events = s.events := rfl
@[simp] theorem pio1Stage_draws (C : Collaborators) (s : State) : (pio1Stage C s).draws = s.draws := rfl
@[simp] theorem pio1Stage_audioFill (C : Collaborators) (s : State) : (pio1Stage C s).audioFill = s.audioFill := rfl

@[simp] theorem pio2Stage_valid (C : Collaborators) (s : State) : (pio2Stage C s).valid = s.valid := rfl
@[simp] theorem pio2Stage_params (C : Collaborators) (s : State) : (pio2Stage C s).params = s.params := rfl
@[simp] theorem pio2Stage_variant (C : Collaborators) (s : State) : (pio2Stage C s).variant = s.variant := rfl
@[simp] theorem pio2Stage_cpu (C : Collaborators) (s : State) : (pio2Stage C s).cpu = s.cpu := rfl
@[simp] theorem pio2Stage_ctcCascade (C : Collaborators) (s : State) : (pio2Stage C s).ctcCascade = s.ctcCascade := rfl
@[simp] theorem pio2Stage_pio1 (C : Collaborators) (s : State) : (pio2Stage C s).pio1 = s.pio1 := rfl
@[simp] theorem pio2Stage_ctc (C : Collaborators) (s : State) : (pio2Stage C s).ctc = s.ctc := rfl
@[simp] theorem pio2Stage_beeper (C : Collaborators) (s : State) : (pio2Stage C s).beeper = s.beeper := rfl
@[simp] theorem pio2Stage_map (C : Collaborators) (s : State) : (pio2Stage C s).map = s.map := rfl
@[simp] theorem pio2Stage_ram (C : Collaborators) (s : State) : (pio2Stage C s).ram = s.ram := rfl
@[simp] theorem pio2Stage_rom (C : Collaborators) (s : State) : (pio2Stage C s).rom = s.rom := rfl
@[simp] theorem pio2Stage_font (C : Collaborators) (s : State) : (pio2Stage C s).font = s.font := rfl
@[simp] theorem pio2Stage_fb (C : Collaborators) (s : State) : (pio2Stage C s).fb = s.fb := rfl
@[simp] theorem pio2Stage_blinkCounter (C : Collaborators) (s : State) : (pio2Stage C s).blinkCounter = s.blinkCounter := rfl
@[simp] theorem pio2Stage_blinkFF (C : Collaborators) (s : State) : (pio2Stage C s).blinkFF = s.blinkFF := rfl
@[simp] theorem pio2Stage_audioBuf (C : Collaborators) (s : State) : (pio2Stage C s).audioBuf = s.audioBuf := rfl
@[simp] theorem pio2Stage_audioPos (C : Collaborators) (s : State) : (pio2Stage C s).audioPos = s.audioPos := rfl
@[simp] theorem pio2Stage_audioN (C : Collaborators) (s : State) : (pio2Stage C s).audioN = s.audioN := rfl
@[simp] theorem pio2Stage_clkRem (C : Collaborators) (s : State) : (pio2Stage C s).clkRem = s.clkRem := rfl
@[simp] theorem pio2Stage_hook (C : Collaborators) (s : State) : (pio2Stage C s).hook = s.hook := rfl
@[simp] theorem pio2Stage_audioCfg (C : Collaborators) (s : State) : (pio2Stage C s).audioCfg = s.audioCfg := rfl
@[simp] theorem pio2Stage_events (C : Collaborators) (s : State) : (pio2Stage C s).events = s.events := rfl
@[simp] theorem pio2Stage_draws (C : Collaborators) (s : State) : (pio2Stage C s).draws = s.draws := rfl
@[simp] theorem pio2Stage_audioFill (C : Collaborators) (s : State) : (pio2Stage C s).audioFill = s.audioFill := rfl

@[simp] theorem ctcStage_valid (C : Collaborators) (s : State) : (ctcStage C s).valid = s.valid := rfl
@[simp] theorem ctcStage_params (C : Collaborators) (s : State) : (ctcStage C s).params = s.params := rfl
@[simp] theorem ctcStage_variant (C : Collaborators) (s : State) : (ctcStage C s).variant = s.variant := rfl
@[simp] theorem ctcStage_cpu (C : Collaborators) (s : State) : (ctcStage C s).cpu = s.cpu := rfl
@[simp] theorem ctcStage_pio1 (C : Collaborators) (s : State) : (ctcStage C s).pio1 = s.pio1 := rfl
@[simp] theorem ctcStage_pio2 (C : Collaborators) (s : State) : (ctcStage C s).pio2 = s.pio2 := rfl
@[simp] theorem ctcStage_kbd (C : Collaborators) (s : State) : (ctcStage C s).kbd = s.kbd := rfl
@[simp] theorem ctcStage_map (C : Collaborators) (s : State) : (ctcStage C s).map = s.map := rfl
@[simp] theorem ctcStage_ram (C : Collaborators) (s : State) : (ctcStage C s).ram = s.ram := rfl
@[simp] theorem ctcStage_rom (C : Collaborators) (s : State) : (ctcStage C s).rom = s.rom := rfl
@[simp] theorem ctcStage_font (C : Collaborators) (s : State) : (ctcStage C s).font = s.font := rfl
@[simp] theorem ctcStage_fb (C : Collaborators) (s : State) : (ctcStage C s).fb = s.fb := rfl
@[simp] theorem ctcStage_blinkCounter (C : Collaborators) (s : State) : (ctcStage C s).blinkCounter = s.blinkCounter := rfl
@[simp] theorem ctcStage_blinkFF (C : Collaborators) (s : State) : (ctcStage C s).blinkFF = s.blinkFF := rfl
@[simp] theorem ctcStage_audioBuf (C : Collaborators) (s : State) : (ctcStage C s).audioBuf = s.audioBuf := rfl
@[simp] theorem ctcStage_audioPos (C : Collaborators) (s : State) : (ctcStage C s).audioPos = s.audioPos := rfl
@[simp] theorem ctcStage_audioN (C : Collaborators) (s : State) : (ctcStage C s).audioN = s.audioN := rfl
@[simp] theorem ctcStage_clkRem (C : Collaborators) (s : State) : (ctcStage C s).clkRem = s.clkRem := rfl
@[simp] theorem ctcStage_hook (C : Collaborators) (s : State) : (ctcStage C s).hook = s.hook := rfl
@[simp] theorem ctcStage_audioCfg (C : Collaborators) (s : State) : (ctcStage C s).audioCfg = s.audioCfg := rfl
@[simp] theorem ctcStage_events (C : Collaborators) (s : State) : (ctcStage C s).events = s.events := rfl
@[simp] theorem ctcStage_draws (C : Collaborators) (s : State) : (ctcStage C s).draws = s.draws := rfl
@[simp] theorem ctcStage_audioFill (C : Collaborators) (s : State) : (ctcStage C s).audioFill = s.audioFill := rfl

@[simp] theorem chainStages_valid (C : Collaborators) (s : State) : (chainStages C s).valid = s.valid := rfl
@[simp] theorem chainStages_params (C : Collaborators) (s : State) : (chainStages C s).params = s.params := rfl
@[simp] theorem chainStages_variant (C : Collaborators) (s : State) : (chainStages C s).variant = s.variant := rfl
@[simp] theorem chainStages_cpu (C : Collaborators) (s : State) : (chainStages C s).cpu = s.cpu := rfl
@[simp] theorem chainStages_map (C : Collaborators) (s : State) : (chainStages C s).map = s.map := rfl
@[simp] theorem chainStages_ram (C : Collaborators) (s : State) : (chainStages C s).ram = s.ram := rfl
@[simp] theorem chainStages_rom (C : Collaborators) (s : State) : (chainStages C s).rom = s.rom := rfl
@[simp] theorem chainStages_font (C : Collaborators) (s : State) : (chainStages C s).font = s.font := rfl
@[simp] theorem chainStages_fb (C : Collaborators) (s : State) : (chainStages C s).fb = s.fb := rfl
@[simp] theorem chainStages_blinkCounter (C : Collaborators) (s : State) : (chainStages C s).blinkCounter = s.blinkCounter := rfl
@[simp] theorem chainStages_blinkFF (C : Collaborators) (s : State) : (chainStages C s).blinkFF = s.blinkFF := rfl
@[simp] theorem chainStages_audioBuf (C : Collaborators) (s : State) : (chainStages C s).audioBuf = s.audioBuf := rfl
@[simp] theorem chainStages_audioPos (C : Collaborators) (s : State) : (chainStages C s).audioPos = s.audioPos := rfl
@[simp] theorem chainStages_audioN (C : Collaborators) (s : State) : (chainStages C s).audioN = s.audioN := rfl
@[simp] theorem chainStages_clkRem (C : Collaborators) (s : State) : (chainStages C s).clkRem = s.clkRem := rfl
@[simp] theorem chainStages_hook (C : Collaborators) (s : State) : (chainStages C s).hook = s.hook := rfl
@[simp] theorem chainStages_audioCfg (C : Collaborators) (s : State) : (chainStages C s).audioCfg = s.audioCfg := rfl
@[simp] theorem chainStages_events (C : Collaborators) (s : State) : (chainStages C s).events = s.events := rfl
@[simp] theorem chainStages_draws (C : Collaborators) (s : State) : (chainStages C s).draws = s.draws := rfl
@[simp] theorem chainStages_audioFill (C : Collaborators) (s : State) : (chainStages C s).audioFill = s.audioFill := rfl

@[simp] theorem ioPhase_valid (C : Collaborators) (s : State) : (ioPhase C s).valid = s.valid := rfl
@[simp] theorem ioPhase_params (C : Collaborators) (s : State) : (ioPhase C s).params = s.params := rfl
@[simp] theorem ioPhase_variant (C : Collaborators) (s : State) : (ioPhase C s).variant = s.variant := rfl
@[simp] theorem ioPhase_cpu (C : Collaborators) (s : State) : (ioPhase C s).cpu = s.cpu := rfl
@[simp] theorem ioPhase_map (C : Collaborators) (s : State) : (ioPhase C s).map = s.map := rfl
@[simp] theorem ioPhase_ram (C : Collaborators) (s : State) : (ioPhase C s).ram = s.ram := rfl
@[simp] theorem ioPhase_rom (C : Collaborators) (s : State) : (ioPhase C s).rom = s.rom := rfl
@[simp] theorem ioPhase_font (C : Collaborators) (s : State) : (ioPhase C s).font = s.font := rfl
@[simp] theorem ioPhase_fb (C : Collaborators) (s : State) : (ioPhase C s).fb = s.fb := rfl
@[simp] theorem ioPhase_blinkCounter (C : Collaborators) (s : State) : (ioPhase C s).blinkCounter = s.blinkCounter := rfl
@[simp] theorem ioPhase_blinkFF (C : Collaborators) (s : State) : (ioPhase C s).blinkFF = s.blinkFF := rfl
@[simp] theorem ioPhase_audioBuf (C : Collaborators) (s : State) : (ioPhase C s).audioBuf = s.audioBuf := rfl
@[simp] theorem ioPhase_audioPos (C : Collaborators) (s : State) : (ioPhase C s).audioPos = s.audioPos := rfl
@[simp] theorem ioPhase_audioN (C : Collaborators) (s : State) : (ioPhase C s).audioN = s.audioN := rfl
@[simp] theorem ioPhase_clkRem (C : Collaborators) (s : State) : (ioPhase C s).clkRem = s.clkRem := rfl
@[simp] theorem ioPhase_hook (C : Collaborators) (s : State) : (ioPhase C s).hook = s.hook := rfl
@[simp] theorem ioPhase_audioCfg (C : Collaborators) (s : State) : (ioPhase C s).audioCfg = s.audioCfg := rfl
@[simp] theorem ioPhase_events (C : Collaborators) (s : State) : (ioPhase C s).events = s.events := rfl
@[simp] theorem ioPhase_audioFill (C : Collaborators) (s : State) : (ioPhase C s).audioFill = s.audioFill := rfl

@[simp] theorem presentRow_valid (i : Instr) (s : State) : (presentRow i s).valid = s.valid := rfl
@[simp] theorem presentRow_params (i : Instr) (s : State) : (presentRow i s).params = s.params := rfl
@[simp] theorem presentRow_variant (i : Instr) (s : State) : (presentRow i s).variant = s.variant := rfl
@[simp] theorem presentRow_cpu (i : Instr) (s : State) : (presentRow i s).cpu = s.cpu := rfl
@[simp] theorem presentRow_ctcCascade (i : Instr) (s : State) : (presentRow i s).ctcCascade = s.ctcCascade := rfl
@[simp] theorem presentRow_pio1 (i : Instr) (s : State) : (presentRow i s).pio1 = s.pio1 := rfl
@[simp] theorem presentRow_pio2 (i : Instr) (s : State) : (presentRow i s).pio2 = s.pio2 := rfl
@[simp] theorem presentRow_ctc (i : Instr) (s : State) : (presentRow i s).ctc = s.ctc := rfl
@[simp] theorem presentRow_beeper (i : Instr) (s : State) : (presentRow i s).beeper = s.beeper := rfl
@[simp] theorem presentRow_kbd (i : Instr) (s : State) : (presentRow i s).kbd = s.kbd := rfl
@[simp] theorem presentRow_map (i : Instr) (s : State) : (presentRow i s).map = s.map := rfl
@[simp] theorem presentRow_ram (i : Instr) (s : State) : (presentRow i s).ram = s.ram := rfl
@[simp] theorem presentRow_rom (i : Instr) (s : State) : (presentRow i s).rom = s.rom := rfl
@[simp] theorem presentRow_font (i : Instr) (s : State) : (presentRow i s).font = s.font := rfl
@[simp] theorem presentRow_fb (i : Instr) (s : State) : (presentRow i s).fb = s.fb := rfl
@[simp] theorem presentRow_blinkCounter (i : Instr) (s : State) : (presentRow i s).blinkCounter = s.blinkCounter := rfl
@[simp] theorem presentRow_blinkFF (i : Instr) (s : State) : (presentRow i s).blinkFF = s.blinkFF := rfl
@[simp] theorem presentRow_audioBuf (i : Instr) (s : State) : (presentRow i s).audioBuf = s.audioBuf := rfl
@[simp] theorem presentRow_audioPos (i : Instr) (s : State) : (presentRow i s).audioPos = s.audioPos := rfl
@[simp] theorem presentRow_audioN (i : Instr) (s : State) : (presentRow i s).audioN = s.audioN := rfl
@[simp] theorem presentRow_clkRem (i : Instr) (s : State) : (presentRow i s).clkRem = s.clkRem := rfl
@[simp] theorem presentRow_hook (i : Instr) (s : State) : (presentRow i s).hook = s.hook := rfl
@[simp] theorem presentRow_audioCfg (i : Instr) (s : State) : (presentRow i s).audioCfg = s.audioCfg := rfl
@[simp] theorem presentRow_events (i : Instr) (s : State) : (presentRow i s).events = s.events := rfl
@[simp] theorem presentRow_draws (i : Instr) (s : State) : (presentRow i s).draws = s.draws := rfl
@[simp] theorem presentRow_audioFill (i : Instr) (s : State) : (presentRow i s).audioFill = s.audioFill := rfl

@[simp] theorem audioPush_valid (s : State) (v : Sample) : (audioPush s v).valid = s.valid := rfl
@[simp] theorem audioPush_params (s : State) (v : Sample) : (audioPush s v).params = s.params := rfl
@[simp] theorem audioPush_variant (s : State) (v : Sample) : (audioPush s v).variant = s.variant := rfl
@[simp] theorem audioPush_cpu (s : State) (v : Sample) : (audioPush s v).cpu = s.cpu := rfl
@[simp] theorem audioPush_pins (s : State) (v : Sample) : (audioPush s v).pins = s.pins := rfl
@[simp] theorem audioPush_ctcCascade (s : State) (v : Sample) : (audioPush s v).ctcCascade = s.ctcCascade := rfl
@[simp] theorem audioPush_pio1 (s : State) (v : Sample) : (audioPush s v).pio1 = s.pio1 := rfl
@[simp] theorem audioPush_pio2 (s : State) (v : Sample) : (audioPush s v).pio2 = s.pio2 := rfl
@[simp] theorem audioPush_ctc (s : State) (v : Sample) : (audioPush s v).ctc = s.ctc := rfl
@[simp] theorem audioPush_beeper (s : State) (v : Sample) : (audioPush s v).beeper = s.beeper := rfl
@[simp] theorem audioPush_kbd (s : State) (v : Sample) : (audioPush s v).kbd = s.kbd := rfl
@[simp] theorem audioPush_map (s : State) (v : Sample) : (audioPush s v).map = s.map := rfl
@[simp] theorem audioPush_ram (s : State) (v : Sample) : (audioPush s v).ram = s.ram := rfl
@[simp] theorem audioPush_rom (s : State) (v : Sample) : (audioPush s v).rom = s.rom := rfl
@[simp] theorem audioPush_font (s : State) (v : Sample) : (audioPush s v).font = s.font := rfl
@[simp] theorem audioPush_fb (s : State) (v : Sample) : (audioPush s v).fb = s.fb := rfl
@[simp] theorem audioPush_blinkCounter (s : State) (v : Sample) : (audioPush s v).blinkCounter = s.blinkCounter := rfl
@[simp] theorem audioPush_blinkFF (s : State) (v : Sample) : (audioPush s v).blinkFF = s.blinkFF := rfl
@[simp] theorem audioPush_audioN (s : State) (v : Sample) : (audioPush s v).audioN = s.audioN := rfl
@[simp] theorem audioPush_clkRem (s : State) (v : Sample) : (audioPush s v).clkRem = s.clkRem := rfl
@[simp] theorem audioPush_hook (s : State) (v : Sample) : (audioPush s v).hook = s.hook := rfl
@[simp] theorem audioPush_audioCfg (s : State) (v : Sample) : (audioPush s v).audioCfg = s.audioCfg := rfl

@[simp] theorem audioStep_valid (C : Collaborators) (s : State) : (audioStep C s).valid = s.valid := rfl
@[simp] theorem audioStep_params (C : Collaborators) (s : State) : (audioStep C s).params = s.params := rfl
@[simp] theorem audioStep_variant (C : Collaborators) (s : State) : (audioStep C s).variant = s.variant := rfl
@[simp] theorem audioStep_cpu (C : Collaborators) (s : State) : (audioStep C s).cpu = s.cpu := rfl
@[simp] theorem audioStep_pins (C : Collaborators) (s : State) : (audioStep C s).pins = s.pins := rfl
@[simp] theorem audioStep_ctcCascade (C : Collaborators) (s : State) : (audioStep C s).ctcCascade = s.ctcCascade := rfl
@[simp] theorem audioStep_pio1 (C : Collaborators) (s : State) : (audioStep C s).pio1 = s.pio1 := rfl
@[simp] theorem audioStep_pio2 (C : Collaborators) (s : State) : (audioStep C s).pio2 = s.pio2 := rfl
@[simp] theorem audioStep_ctc (C : Collaborators) (s : State) : (audioStep C s).ctc = s.ctc := rfl
@[simp] theorem audioStep_kbd (C : Collaborators) (s : State) : (audioStep C s).kbd = s.kbd := rfl
@[simp] theorem audioStep_map (C : Collaborators) (s : State) : (audioStep C s).map = s.map := rfl
@[simp] theorem audioStep_ram (C : Collaborators) (s : State) : (audioStep C s).ram = s.ram := rfl
@[simp] theorem audioStep_rom (C : Collaborators) (s : State) : (audioStep C s).rom = s.rom := rfl
@[simp] theorem audioStep_font (C : Collaborators) (s : State) : (audioStep C s).font = s.font := rfl
@[simp] theorem audioStep_fb (C : Collaborators) (s : State) : (audioStep C s).fb = s.fb := rfl
@[simp] theorem audioStep_blinkCounter (C : Collaborators) (s : State) : (audioStep C s).blinkCounter = s.blinkCounter := rfl
@[simp] theorem audioStep_blinkFF (C : Collaborators) (s : State) : (audioStep C s).blinkFF = s.blinkFF := rfl
@[simp] theorem audioStep_audioN (C : Collaborators) (s : State) : (audioStep C s).audioN = s.audioN := rfl
@[simp] theorem audioStep_clkRem (C : Collaborators) (s : State) : (audioStep C s).clkRem = s.clkRem := rfl
@[simp] theorem audioStep_hook (C : Collaborators) (s : State) : (audioStep C s).hook = s.hook := rfl
@[simp] theorem audioStep_audioCfg (C : Collaborators) (s : State) : (audioStep C s).audioCfg = s.audioCfg := rfl

@[simp] theorem blinkStep_valid (s : State) : (blinkStep s).valid = s.valid := rfl
@[simp] theorem blinkStep_params (s : State) : (blinkStep s).params = s.params := rfl
@[simp] theorem blinkStep_variant (s : State) : (blinkStep s).variant = s.variant := rfl
@[simp] theorem blinkStep_cpu (s : State) : (blinkStep s).cpu = s.cpu := rfl
@[simp] theorem blinkStep_pins (s : State) : (blinkStep s).pins = s.pins := rfl
@[simp] theorem blinkStep_ctcCascade (s : State) : (blinkStep s).ctcCascade = s.ctcCascade := rfl
@[simp] theorem blinkStep_pio1 (s : State) : (blinkStep s).pio1 = s.pio1 := rfl
@[simp] theorem blinkStep_pio2 (s : State) : (blinkStep s).pio2 = s.pio2 := rfl
@[simp] theorem blinkStep_ctc (s : State) : (blinkStep s).ctc = s.ctc := rfl
@[simp] theorem blinkStep_beeper (s : State) : (blinkStep s).beeper = s.beeper := rfl
@[simp] theorem blinkStep_kbd (s : State) : (blinkStep s).kbd = s.kbd := rfl
@[simp] theorem blinkStep_map (s : State) : (blinkStep s).map = s.map := rfl
@[simp] theorem blinkStep_ram (s : State) : (blinkStep s).ram = s.ram := rfl
@[simp] theorem blinkStep_rom (s : State) : (blinkStep s).rom = s.rom := rfl
@[simp] theorem blinkStep_font (s : State) : (blinkStep s).font = s.font := rfl
@[simp] theorem blinkStep_fb (s : State) : (blinkStep s).fb = s.fb := rfl
@[simp] theorem blinkStep_audioBuf (s : State) : (blinkStep s).audioBuf = s.audioBuf := rfl
@[simp] theorem blinkStep_audioPos (s : State) : (blinkStep s).audioPos = s.audioPos := rfl
@[simp] theorem blinkStep_audioN (s : State) : (blinkStep s).audioN = s.audioN := rfl
@[simp] theorem blinkStep_clkRem (s : State) : (blinkStep s).clkRem = s.clkRem := rfl
@[simp] theorem blinkStep_hook (s : State) : (blinkStep s).hook = s.hook := rfl
@[simp] theorem blinkStep_audioCfg (s : State) : (blinkStep s).audioCfg = s.audioCfg := rfl
@[simp] theorem blinkStep_events (s : State) : (blinkStep s).events = s.events := rfl
@[simp] theorem blinkStep_draws (s : State) : (blinkStep s).draws = s.draws := rfl
@[simp] theorem blinkStep_audioFill (s : State) : (blinkStep s).audioFill = s.audioFill := rfl

@[simp] theorem hookCall_valid (d : Nat → Bool) (s : State) : (hookCall d s).valid = s.valid := rfl
@[simp] theorem hookCall_params (d : Nat → Bool) (s : State) : (hookCall d s).params = s.params := rfl
@[simp] theorem hookCall_variant (d : Nat → Bool) (s : State) : (hookCall d s).variant = s.variant := rfl
@[simp] theorem hookCall_cpu (d : Nat → Bool) (s : State) : (hookCall d s).cpu = s.cpu := rfl
@[simp] theorem hookCall_pins (d : Nat → Bool) (s : State) : (hookCall d s).pins = s.pins := rfl
@[simp] theorem hookCall_ctcCascade (d : Nat → Bool) (s : State) : (hookCall d s).ctcCascade = s.ctcCascade := rfl
@[simp] theorem hookCall_pio1 (d : Nat → Bool) (s : State) : (hookCall d s).pio1 = s.pio1 := rfl
@[simp] theorem hookCall_pio2 (d : Nat → Bool) (s : State) : (hookCall d s).pio2 = s.pio2 := rfl
@[simp] theorem hookCall_ctc (d : Nat → Bool) (s : State) : (hookCall d s).ctc = s.ctc := rfl
@[simp] theorem hookCall_beeper (d : Nat → Bool) (s : State) : (hookCall d s).beeper = s.beeper := rfl
@[simp] theorem hookCall_kbd (d : Nat → Bool) (s : State) : (hookCall d s).kbd = s.kbd := rfl
@[simp] theorem hookCall_map (d : Nat → Bool) (s : State) : (hookCall d s).map = s.map := rfl
@[simp] theorem hookCall_ram (d : Nat → Bool) (s : State) : (hookCall d s).ram = s.ram := rfl
@[simp] theorem hookCall_rom (d : Nat → Bool) (s : State) : (hookCall d s).rom = s.rom := rfl
@[simp] theorem hookCall_font (d : Nat → Bool) (s : State) : (hookCall d s).font = s.font := rfl
@[simp] theorem hookCall_fb (d : Nat → Bool) (s : State) : (hookCall d s).fb = s.fb := rfl
@[simp] theorem hookCall_blinkCounter (d : Nat → Bool) (s : State) : (hookCall d s).blinkCounter = s.blinkCounter := rfl
@[simp] theorem hookCall_blinkFF (d : Nat → Bool) (s : State) : (hookCall d s).blinkFF = s.blinkFF := rfl
@[simp] theorem hookCall_audioBuf (d : Nat → Bool) (s : State) : (hookCall d s).audioBuf = s.audioBuf := rfl
@[simp] theorem hookCall_audioPos (d : Nat → Bool) (s : State) : (hookCall d s).audioPos = s.audioPos := rfl
@[simp] theorem hookCall_audioN (d : Nat → Bool) (s : State) : (hookCall d s).audioN = s.audioN := rfl
@[simp] theorem hookCall_clkRem (d : Nat → Bool) (s : State) : (hookCall d s).clkRem = s.clkRem := rfl
@[simp] theorem hookCall_audioCfg (d : Nat → Bool) (s : State) : (hookCall d s).audioCfg = s.audioCfg := rfl
@[simp] theorem hookCall_audioFill (d : Nat → Bool) (s : State) : (hookCall d s).audioFill = s.audioFill := rfl

@[simp] theorem withFb_valid (s : State) (fb : List Host.Cell) : (withFb s fb).valid = s.valid := rfl
@[simp] theorem withFb_params (s : State) (fb : List Host.Cell) : (withFb s fb).params = s.params := rfl
@[simp] theorem withFb_variant (s : State) (fb : List Host.Cell) : (withFb s fb).variant = s.variant := rfl
@[simp] theorem withFb_cpu (s : State) (fb : List Host.Cell) : (withFb s fb).cpu = s.cpu := rfl
@[simp] theorem withFb_pins (s : State) (fb : List Host.Cell) : (withFb s fb).pins = s.pins := rfl
@[simp] theorem withFb_ctcCascade (s : State) (fb : List Host.Cell) : (withFb s fb).ctcCascade = s.ctcCascade := rfl
@[simp] theorem withFb_pio1 (s : State) (fb : List Host.Cell) : (withFb s fb).pio1 = s.pio1 := rfl
@[simp] theorem withFb_pio2 (s : State) (fb : List Host.Cell) : (withFb s fb).pio2 = s.pio2 := rfl
@[simp] theorem withFb_ctc (s : State) (fb : List Host.Cell) : (withFb s fb).ctc = s.ctc := rfl
@[simp] theorem withFb_beeper (s : State) (fb : List Host.Cell) : (withFb s fb).beeper = s.beeper := rfl
@[simp] theorem withFb_kbd (s : State) (fb : List Host.Cell) : (withFb s fb).kbd = s.kbd := rfl
@[simp] theorem withFb_map (s : State) (fb : List Host.Cell) : (withFb s fb).map = s.map := rfl
@[simp] theorem withFb_ram (s : State) (fb : List Host.Cell) : (withFb s fb).ram = s.ram := rfl
@[simp] theorem withFb_rom (s : State) (fb : List Host.Cell) : (withFb s fb).rom = s.rom := rfl
@[simp] theorem withFb_font (s : State) (fb : List Host.Cell) : (withFb s fb).font = s.font := rfl
@[simp] theorem withFb_blinkCounter (s : State) (fb : List Host.Cell) : (withFb s fb).blinkCounter = s.blinkCounter := rfl
@[simp] theorem withFb_blinkFF (s : State) (fb : List Host.Cell) : (withFb s fb).blinkFF = s.blinkFF := rfl
@[simp] theorem withFb_audioBuf (s : State) (fb : List Host.Cell) : (withFb s fb).audioBuf = s.audioBuf := rfl
@[simp] theorem withFb_audioPos (s : State) (fb : List Host.Cell) : (withFb s fb).audioPos = s.audioPos := rfl
@[simp] theorem withFb_audioN (s : State) (fb : List Host.Cell) : (withFb s fb).audioN = s.audioN := rfl
@[simp] theorem withFb_clkRem (s : State) (fb : List Host.Cell) : (withFb s fb).clkRem = s.clkRem := rfl
@[simp] theorem withFb_hook (s : State) (fb : List Host.Cell) : (withFb s fb).hook = s.hook := rfl
@[simp] theorem withFb_audioCfg (s : State) (fb : List Host.Cell) : (withFb s fb).audioCfg = s.audioCfg := rfl
@[simp] theorem withFb_events (s : State) (fb : List Host.Cell) : (withFb s fb).events = s.events := rfl
@[simp] theorem withFb_draws (s : State) (fb : List Host.Cell) : (withFb s fb).draws = s.draws := rfl
@[simp] theorem withFb_audioFill (s : State) (fb : List Host.Cell) : (withFb s fb).audioFill = s.audioFill := rfl

@[simp] theorem videoDecode_valid (s : State) : (videoDecode s).valid = s.valid := withFb_valid s _
@[simp] theorem videoDecode_params (s : State) : (videoDecode s).params = s.params := withFb_params s _
@[simp] theorem videoDecode_variant (s : State) : (videoDecode s).variant = s.variant := withFb_variant s _
@[simp] theorem videoDecode_cpu (s : State) : (videoDecode s).cpu = s.cpu := withFb_cpu s _
@[simp] theorem videoDecode_pins (s : State) : (videoDecode s).pins = s.pins := withFb_pins s _
@[simp] theorem videoDecode_ctcCascade (s : State) : (videoDecode s).ctcCascade = s.ctcCascade := withFb_ctcCascade s _
@[simp] theorem videoDecode_pio1 (s : State) : (videoDecode s).pio1 = s.pio1 := withFb_pio1 s _
@[simp] theorem videoDecode_pio2 (s : State) : (videoDecode s).pio2 = s.pio2 := withFb_pio2 s _
@[simp] theorem videoDecode_ctc (s : State) : (videoDecode s).ctc = s.ctc := withFb_ctc s _
@[simp] theorem videoDecode_beeper (s : State) : (videoDecode s).beeper = s.beeper := withFb_beeper s _
@[simp] theorem videoDecode_kbd (s : State) : (videoDecode s).kbd = s.kbd := withFb_kbd s _
@[simp] theorem videoDecode_map (s : State) : (videoDecode s).map = s.map := withFb_map s _
@[simp] theorem videoDecode_ram (s : State) : (videoDecode s).ram = s.ram := withFb_ram s _
@[simp] theorem videoDecode_rom (s : State) : (videoDecode s).rom = s.rom := withFb_rom s _
@[simp] theorem videoDecode_font (s : State) : (videoDecode s).font = s.font := withFb_font s _
@[simp] theorem videoDecode_blinkCounter (s : State) : (videoDecode s).blinkCounter = s.blinkCounter := withFb_blinkCounter s _
@[simp] theorem videoDecode_blinkFF (s : State) : (videoDecode s).blinkFF = s.blinkFF := withFb_blinkFF s _
@[simp] theorem videoDecode_audioBuf (s : State) : (videoDecode s).audioBuf = s.audioBuf := withFb_audioBuf s _
@[simp] theorem videoDecode_audioPos (s : State) : (videoDecode s).audioPos = s.audioPos := withFb_audioPos s _
@[simp] theorem videoDecode_audioN (s : State) : (videoDecode s).audioN = s.audioN := withFb_audioN s _
@[simp] theorem videoDecode_clkRem (s : State) : (videoDecode s).clkRem = s.clkRem := withFb_clkRem s _
@[simp] theorem videoDecode_hook (s : State) : (videoDecode s).hook = s.hook := withFb_hook s _
@[simp] theorem videoDecode_audioCfg (s : State) : (videoDecode s).audioCfg = s.audioCfg := withFb_audioCfg s _
@[simp] theorem videoDecode_events (s : State) : (videoDecode s).events = s.events := withFb_events s _
@[simp] theorem videoDecode_draws (s : State) : (videoDecode s).draws = s.draws := withFb_draws s _
@[simp] theorem videoDecode_audioFill (s : State) : (videoDecode s).audioFill = s.audioFill := withFb_audioFill s _

@[simp] theorem endSlice_valid (us : Nat) (s : State) : (endSlice us s).valid = s.valid := (videoDecode_valid _).trans rfl
@[simp] theorem endSlice_params (us : Nat) (s : State) : (endSlice us s).params = s.params := (videoDecode_params _).trans rfl
@[simp] theorem endSlice_variant (us : Nat) (s : State) : (endSlice us s).variant = s.variant := (videoDecode_variant _).trans rfl
@[simp] theorem endSlice_cpu (us : Nat) (s : State) : (endSlice us s).cpu = s.cpu := (videoDecode_cpu _).trans rfl
@[simp] theorem endSlice_pins (us : Nat) (s : State) : (endSlice us s).pins = s.pins := (videoDecode_pins _).trans rfl
@[simp] theorem endSlice_ctcCascade (us : Nat) (s : State) : (endSlice us s).ctcCascade = s.ctcCascade := (videoDecode_ctcCascade _).trans rfl
@[simp] theorem endSlice_pio1 (us : Nat) (s : State) : (endSlice us s).pio1 = s.pio1 := (videoDecode_pio1 _).trans rfl
@[simp] theorem endSlice_pio2 (us : Nat) (s : State) : (endSlice us s).pio2 = s.pio2 := (videoDecode_pio2 _).trans rfl
@[simp] theorem endSlice_ctc (us : Nat) (s : State) : (endSlice us s).ctc = s.ctc := (videoDecode_ctc _).trans rfl
@[simp] theorem endSlice_beeper (us : Nat) (s : State) : (endSlice us s).beeper = s.beeper := (videoDecode_beeper _).trans rfl
@[simp] theorem endSlice_map (us : Nat) (s : State) : (endSlice us s).map = s.map := (videoDecode_map _).trans rfl
@[simp] theorem endSlice_ram (us : Nat) (s : State) : (endSlice us s).ram = s.ram := (videoDecode_ram _).trans rfl
@[simp] theorem endSlice_rom (us : Nat) (s : State) : (endSlice us s).rom = s.rom := (videoDecode_rom _).trans rfl
@[simp] theorem endSlice_font (us : Nat) (s : State) : (endSlice us s).font = s.font := (videoDecode_font _).trans rfl
@[simp] theorem endSlice_blinkCounter (us : Nat) (s : State) : (endSlice us s).blinkCounter = s.blinkCounter := (videoDecode_blinkCounter _).trans rfl
@[simp] theorem endSlice_blinkFF (us : Nat) (s : State) : (endSlice us s).blinkFF = s.blinkFF := (videoDecode_blinkFF _).trans rfl
@[simp] theorem endSlice_audioBuf (us : Nat) (s : State) : (endSlice us s).audioBuf = s.audioBuf := (videoDecode_audioBuf _).trans rfl
@[simp] theorem endSlice_audioPos (us : Nat) (s : State) : (endSlice us s).audioPos = s.audioPos := (videoDecode_audioPos _).trans rfl
@[simp] theorem endSlice_audioN (us : Nat) (s : State) : (endSlice us s).audioN = s.audioN := (videoDecode_audioN _).trans rfl
@[simp] theorem endSlice_clkRem (us : Nat) (s : State) : (endSlice us s).clkRem = s.clkRem := (videoDecode_clkRem _).trans rfl
@[simp] theorem endSlice_hook (us : Nat) (s : State) : (endSlice us s).hook = s.hook := (videoDecode_hook _).trans rfl
@[simp] theorem endSlice_audioCfg (us : Nat) (s : State) : (endSlice us s).audioCfg = s.audioCfg := (videoDecode_audioCfg _).trans rfl
@[simp] theorem endSlice_events (us : Nat) (s : State) : (endSlice us s).events = s.events := (videoDecode_events _).trans rfl
@[simp] theorem endSlice_draws (us : Nat) (s : State) : (endSlice us s).draws = s.draws := (videoDecode_draws _).trans rfl
@[simp] theorem endSlice_audioFill (us : Nat) (s : State) : (endSlice us s).audioFill = s.audioFill := (videoDecode_audioFill _).trans rfl

@[simp] theorem setStopped_valid (b : Bool) (s : State) : (setStopped b s).valid = s.valid := rfl
@[simp] theorem setStopped_params (b : Bool) (s : State) : (setStopped b s).params = s.params := rfl
@[simp] theorem setStopped_variant (b : Bool) (s : State) : (setStopped b s).variant = s.variant := rfl
@[simp] theorem setStopped_cpu (b : Bool) (s : State) : (setStopped b s).cpu = s.cpu := rfl
@[simp] theorem setStopped_pins (b : Bool) (s : State) : (setStopped b s).pins = s.pins := rfl
@[simp] theorem setStopped_ctcCascade (b : Bool) (s : State) : (setStopped b s).ctcCascade = s.ctcCascade := rfl
@[simp] theorem setStopped_pio1 (b : Bool) (s : State) : (setStopped b s).pio1 = s.pio1 := rfl
@[simp] theorem setStopped_pio2 (b : Bool) (s : State) : (setStopped b s).pio2 = s.pio2 := rfl
@[simp] theorem setStopped_ctc (b : Bool) (s : State) : (setStopped b s).ctc = s.ctc := rfl
@[simp] theorem setStopped_beeper (b : Bool) (s : State) : (setStopped b s).beeper = s.beeper := rfl
@[simp] theorem setStopped_kbd (b : Bool) (s : State) : (setStopped b s).kbd = s.kbd := rfl
@[simp] theorem setStopped_map (b : Bool) (s : State) : (setStopped b s).map = s.map := rfl
@[simp] theorem setStopped_ram (b : Bool) (s : State) : (setStopped b s).ram = s.ram := rfl
@[simp] theorem setStopped_rom (b : Bool) (s : State) : (setStopped b s).rom = s.rom := rfl
@[simp] theorem setStopped_font (b : Bool) (s : State) : (setStopped b s).font = s.font := rfl
@[simp] theorem setStopped_fb (b : Bool) (s : State) : (setStopped b s).fb = s.fb := rfl
@[simp] theorem setStopped_blinkCounter (b : Bool) (s : State) : (setStopped b s).blinkCounter = s.blinkCounter := rfl
@[simp] theorem setStopped_blinkFF (b : Bool) (s : State) : (setStopped b s).blinkFF = s.blinkFF := rfl
@[simp] theorem setStopped_audioBuf (b : Bool) (s : State) : (setStopped b s).audioBuf = s.audioBuf := rfl
@[simp] theorem setStopped_audioPos (b : Bool) (s : State) : (setStopped b s).audioPos = s.audioPos := rfl
@[simp] theorem setStopped_audioN (b : Bool) (s : State) : (setStopped b s).audioN = s.audioN := rfl
@[simp] theorem setStopped_clkRem (b : Bool) (s : State) : (setStopped b s).clkRem = s.clkRem := rfl
@[simp] theorem setStopped_audioCfg (b : Bool) (s : State) : (setStopped b s).audioCfg = s.audioCfg := rfl
@[simp] theorem setStopped_events (b : Bool) (s : State) : (setStopped b s).events = s.events := rfl
@[simp] theorem setStopped_draws (b : Bool) (s : State) : (setStopped b s).draws = s.draws := rfl
@[simp] theorem setStopped_audioFill (b : Bool) (s : State) : (setStopped b s).audioFill = s.audioFill := rfl

@[simp] theorem resetState_valid (s : State) : (resetState s).valid = s.valid := rfl
@[simp] theorem resetState_params (s : State) : (resetState s).params = s.params := rfl
@[simp] theorem resetState_variant (s : State) : (resetState s).variant = s.variant := rfl
@[simp] theorem resetState_kbd (s : State) : (resetState s).kbd = s.kbd := rfl
@[simp] theorem resetState_map (s : State) : (resetState s).map = s.map := rfl
@[simp] theorem resetState_ram (s : State) : (resetState s).ram = s.ram := rfl
@[simp] theorem resetState_rom (s : State) : (resetState s).rom = s.rom := rfl
@[simp] theorem resetState_font (s : State) : (resetState s).font = s.font := rfl
@[simp] theorem resetState_fb (s : State) : (resetState s).fb = s.fb := rfl
@[simp] theorem resetState_blinkCounter (s : State) : (resetState s).blinkCounter = s.blinkCounter := rfl
@[simp] theorem resetState_blinkFF (s : State) : (resetState s).blinkFF = s.blinkFF := rfl
@[simp] theorem resetState_audioBuf (s : State) : (resetState s).audioBuf = s.audioBuf := rfl
@[simp] theorem resetState_audioPos (s : State) : (resetState s).audioPos = s.audioPos := rfl
@[simp] theorem resetState_audioN (s : State) : (resetState s).audioN = s.audioN := rfl
@[simp] theorem resetState_clkRem (s : State) : (resetState s).clkRem = s.clkRem := rfl
@[simp] theorem resetState_hook (s : State) : (resetState s).hook = s.hook := rfl
@[simp] theorem resetState_audioCfg (s : State) : (resetState s).audioCfg = s.audioCfg := rfl
@[simp] theorem resetState_events (s : State) : (resetState s).events = s.events := rfl
@[simp] theorem resetState_draws (s : State) : (resetState s).draws = s.draws := rfl
@[simp] theorem resetState_audioFill (s : State) : (resetState s).audioFill = s.audioFill := rfl

/-! ### The fields the operations write -/

@[simp] theorem presentRow_pins (i : Instr) (s : State) : (presentRow i s).pins = present s.params i s.pins := rfl

@[simp] theorem cpuPhase_pins (C : Collaborators) (s : State) : (cpuPhase C s).pins = Bus.mask (cpuTick C s.cpu s.pins).2 := rfl

@[simp] theorem cpuPhase_cpu (C : Collaborators) (s : State) : (cpuPhase C s).cpu = (cpuTick C s.cpu s.pins).1 := rfl

theorem memWrite_ram (s : State) (a : Addr) (v : Byte) :
    (memWrite s a v).ram = match memWriteIndex s a with
      | none => s.ram
      | some k => cellWrite ramBg s.ram k v := rfl

theorem chainStages_pins (C : Collaborators) (s : State) :
    (chainStages C s).pins = Bus.mask (ctcTick C s.ctc (ctcInput (pio2Stage C (pio1Stage C s)))).2 := rfl

theorem ioPhase_draws (C : Collaborators) (s : State) :
    (ioPhase C s).draws = if dataFloats C s then s.draws + 1 else s.draws := rfl

theorem ioPhase_pins (C : Collaborators) (s : State) :
    (ioPhase C s).pins =
      if dataFloats C s then Bus.setData (Config.freeByte s.draws) (chainStages C s).pins else (chainStages C s).pins := rfl

theorem blinkStep_blinkCounter (s : State) :
    (blinkStep s).blinkCounter = if s.blinkCounter = 0#32 then blinkReload s.params else s.blinkCounter - 1#32 := rfl

theorem blinkStep_blinkFF (s : State) : (blinkStep s).blinkFF = if s.blinkCounter = 0#32 then blinkFlip s.blinkFF else s.blinkFF := rfl

@[simp] theorem withFb_fb (s : State) (fb : List Host.Cell) : (withFb s fb).fb = fb := rfl

theorem videoDecode_fb (s : State) : (videoDecode s).fb = decodedFb s := withFb_fb s _

@[simp] theorem andThen_next {α β : Type} (s : α) (f : α → Host.Outcome β Fault Refusal) : andThen (.next s) f = f s := rfl

@[simp] theorem andThen_fault {α β : Type} (r : Fault) (f : α → Host.Outcome β Fault Refusal) : andThen (.fault r) f = .fault r := rfl

@[simp] theorem andThen_refused {α β : Type} (r : Refusal) (f : α → Host.Outcome β Fault Refusal) :
    andThen (.refused r) f = .refused r := rfl

end Sys2Proof.Machine
end

