-- ==== Sys2Proof/Laws/Ops.lean ====
section
/-! SUPPORT. One lemma per shared operation that says what it can do: the address decoder, the peripheral ticks and stages, the
dispatch, the audio step. Proofs cite these and do not unfold the operations. -/

namespace Sys2Proof.Machine

/-! ### The address decoder -/

/-- The binding the decoder finds is one of the map's and covers the address. -/
theorem topBinding_mem {m : List Binding} {a : Nat} {b : Binding} (h : topBinding m a = some b) :
    b ∈ m ∧ Binding.coversAddr b a = true := by
  induction m with
  | nil => simp [topBinding] at h
  | cons c m ih =>
    simp only [topBinding] at h
    split at h
    · split at h
      · rename_i hc; cases h; exact ⟨List.mem_cons_self, hc⟩
      · cases h
    · rename_i t ht
      split at h
      · rename_i hc
        cases h
        simp only [Bool.and_eq_true] at hc
        exact ⟨List.mem_cons_self, hc.1⟩
      · cases h
        exact ⟨List.mem_cons_of_mem _ (ih ht).1, (ih ht).2⟩

/-- The decoder finds none exactly when no binding covers the address. -/
theorem topBinding_none {m : List Binding} {a : Nat} : topBinding m a = none ↔ ∀ b ∈ m, Binding.coversAddr b a = false := by
  induction m with
  | nil => simp [topBinding]
  | cons c m ih =>
    simp only [topBinding, List.forall_mem_cons]
    split
    · rename_i h
      cases Binding.coversAddr c a
      · simpa using ih.mp h
      · simp
    · rename_i t ht
      constructor
      · split <;> simp
      · rintro ⟨_, hm⟩
        rw [ih.mpr hm] at ht
        cases ht

/-- The binding found has the highest layer among the covering ones. -/
theorem topBinding_max {m : List Binding} {a : Nat} {b : Binding} (h : topBinding m a = some b) :
    ∀ c ∈ m, Binding.coversAddr c a = true → c.layer ≤ b.layer := by
  induction m generalizing b with
  | nil => simp
  | cons d m ih =>
    simp only [topBinding] at h
    intro c hc hcov
    split at h
    · rename_i hn
      rcases List.mem_cons.mp hc with rfl | hc
      · rw [hcov] at h; cases h; exact le_refl _
      · rw [topBinding_none.mp hn c hc] at hcov; cases hcov
    · rename_i t ht
      split at h
      · rename_i hlt
        cases h
        simp only [Bool.and_eq_true, decide_eq_true_eq] at hlt
        rcases List.mem_cons.mp hc with rfl | hc
        · exact le_refl _
        · have := ih ht c hc hcov; omega
      · rename_i hlt
        cases h
        rcases List.mem_cons.mp hc with rfl | hc
        · rw [hcov] at hlt; simpa using hlt
        · exact ih ht c hc hcov

/-- Two bindings of one layer that cover one address are the same, in a map whose layers are disjoint. -/
theorem layersDisjoint_unique {m : List Binding} (hm : layersDisjoint m = true) {a : Nat} {b c : Binding} (hb : b ∈ m) (hc : c ∈ m)
    (cb : Binding.coversAddr b a = true) (cc : Binding.coversAddr c a = true) (hl : b.layer = c.layer) : b = c := by
  induction m with
  | nil => simp at hb
  | cons d m ih =>
    simp only [layersDisjoint, Bool.and_eq_true, List.all_eq_true] at hm
    have apart : ∀ e ∈ m, Binding.coversAddr d a = true → Binding.coversAddr e a = true → d.layer = e.layer → False := by
      intro e he cd ce hde
      have := hm.1 e he
      simp only [Binding.coversAddr, Bool.and_eq_true, decide_eq_true_eq] at cd ce
      simp only [hde, bindingsMeet, decide_true, Bool.true_and, Bool.not_eq_true', Bool.and_eq_false_iff,
        decide_eq_false_iff_not] at this
      rcases this with h | h <;> omega
    rcases List.mem_cons.mp hb with eb | hb <;> rcases List.mem_cons.mp hc with ec | hc
    · rw [eb, ec]
    · rw [eb] at cb hl; exact (apart c hc cb cc hl).elim
    · rw [ec] at cc hl; exact (apart b hb cc cb hl.symm).elim
    · exact ih hm.2 hb hc

/-- Under a well-formed map the decoder finds the covering binding of the highest layer. -/
theorem topBinding_eq {m : List Binding} (hm : layersDisjoint m = true) {a : Nat} {b : Binding} (hb : b ∈ m)
    (cb : Binding.coversAddr b a = true) (hmax : ∀ c ∈ m, Binding.coversAddr c a = true → c.layer ≤ b.layer) :
    topBinding m a = some b := by
  cases h : topBinding m a with
  | none => rw [topBinding_none.mp h b hb] at cb; cases cb
  | some t =>
    have ht := topBinding_mem h
    have h1 := topBinding_max h b hb cb
    have h2 := hmax t ht.1 ht.2
    rw [layersDisjoint_unique hm hb ht.1 cb ht.2 (by omega)]

/-- A well-formed map has disjoint layers. -/
theorem mapWf_layers {P : Params} {v : Variant} {m : List Binding} (h : mapWf P v m = true) : layersDisjoint m = true := by
  simp only [mapWf, Bool.and_eq_true] at h; exact h.2

/-- A binding of a well-formed map that is not read-only is RAM and lies in the RAM block. -/
theorem mapWf_writable {P : Params} {v : Variant} {m : List Binding} (h : mapWf P v m = true) {b : Binding} (hb : b ∈ m)
    (hr : b.readOnly = false) : b.store = .ram ∧ b.offset + b.size ≤ P.ramSize := by
  simp only [mapWf, Bool.and_eq_true, List.all_eq_true] at h
  have h1 := h.1.2 b hb
  have h2 := h.1.1.2 b hb
  have hs : b.store = .ram := by
    cases hst : b.store with
    | ram => rfl
    | rom => simp [bindingRomOk, hst, hr] at h1
  exact ⟨hs, by simpa [bindingStoreOk, storeSize, hs] using h2⟩

/-- A write stores inside the RAM block. -/
theorem memWriteIndex_lt {s : State} (h : mapWf s.params s.variant s.map = true) {a : Addr} {k : Nat}
    (hk : memWriteIndex s a = some k) : k < s.params.ramSize := by
  unfold memWriteIndex at hk
  split at hk
  · cases hk
  · rename_i b hb
    split at hk
    · cases hk
    · rename_i hr
      cases hk
      have hm := topBinding_mem hb
      have hw := mapWf_writable h hm.1 (by simpa using hr)
      have hc := hm.2
      simp only [Binding.coversAddr, Bool.and_eq_true, decide_eq_true_eq] at hc
      simp only [Binding.indexOf]
      omega

/-- A write keeps RAM canonical. -/
theorem memWrite_wf (s : State) (a : Addr) (v : Byte) (h : cellsWf ramBg s.ram = true) : cellsWf ramBg (memWrite s a v).ram = true := by
  rw [memWrite_ram]
  split
  · exact h
  · exact cellsWf_write ramBg _ h _ _

/-- A write keeps RAM inside its block. -/
theorem memWrite_below (s : State) (a : Addr) (v : Byte) (hm : mapWf s.params s.variant s.map = true)
    (h : cellsBelow s.params.ramSize s.ram = true) : cellsBelow s.params.ramSize (memWrite s a v).ram = true := by
  rw [memWrite_ram]
  split
  · exact h
  · rename_i k hk
    exact cellsBelow_write ramBg _ _ _ _ h (memWriteIndex_lt hm hk)

/-- RAM after a write, byte by byte. -/
theorem cellRead_memWrite (s : State) (a : Addr) (v : Byte) (h : cellsWf ramBg s.ram = true) (k : Nat) :
    cellRead ramBg (memWrite s a v).ram k = if memWriteIndex s a = some k then v else cellRead ramBg s.ram k := by
  rw [memWrite_ram]
  split
  · rename_i hn; simp [hn]
  · rename_i j hj
    rw [cellRead_write ramBg _ h, hj]
    simp only [Option.some.injEq, eq_comm]

/-! ### The peripheral ticks and the stages -/

/-- A signal other than D, INT and IEIO passes a peripheral's shared answer. -/
theorem bit_driveShared_out (n : Nat) (d : Option Byte) (r o : Bool) (p : Pins) (h : n < 64) (hd : n < 16 ∨ 24 ≤ n) (hi : n ≠ 30)
    (he : n ≠ 37) : Bus.bit n (driveShared d r o p) = Bus.bit n p := by
  unfold driveShared
  rw [Bus.bit_setBit_other _ _ h _ _ he, Bus.bit_setBit_other _ _ h _ _ hi]
  cases d with
  | none => rfl
  | some d => exact Bus.bit_setData_out n d p h hd

theorem ieio_driveShared (d : Option Byte) (r o : Bool) (p : Pins) : Bus.ieio (driveShared d r o p) = (Bus.ieio p && o) := by
  unfold driveShared Bus.ieio
  rw [Bus.bit_setBit_same _ (by omega)]
  rfl

theorem int_driveShared (d : Option Byte) (r o : Bool) (p : Pins) : Bus.int (driveShared d r o p) = (Bus.int p || r) := by
  unfold driveShared Bus.int
  rw [Bus.bit_setBit_other _ _ (by omega) _ _ (by omega), Bus.bit_setBit_same _ (by omega)]
  rfl

theorem addr_driveShared (d : Option Byte) (r o : Bool) (p : Pins) : Bus.addr (driveShared d r o p) = Bus.addr p := by
  unfold driveShared Bus.addr
  rw [Bus.field_setBit_other _ _ _ _ _ (by omega) (by omega), Bus.field_setBit_other _ _ _ _ _ (by omega) (by omega)]
  cases d with
  | none => rfl
  | some d => exact Bus.field_setField_other _ _ _ _ _ (by omega) (by omega)

/-- Outside a register read and an acknowledge an I/O controller drives no data. -/
theorem pioData_none (r : PioReply) (p : Pins) (hr : registerRead p = false) (hi : Bus.isInta p = false) : pioData r p = none := by
  rw [pioData, mayDriveData, hr, hi]; rfl

/-- A controller that is not selected drives no data but in an acknowledge. -/
theorem registerRead_unselected (p : Pins) (h : Bus.ce p = false) : registerRead p = false := by
  rw [registerRead, h, Bool.and_false, Bool.false_and]

/-- In an acknowledge it drives what it answers with. -/
theorem pioData_inta (r : PioReply) (p : Pins) (hi : Bus.isInta p = true) : pioData r p = r.data := by
  rw [pioData, mayDriveData, hi, Bool.or_true]; rfl

/-- A canonical signal other than D, INT and IEIO passes an I/O controller's tick. -/
theorem bit_pioDrive_out (n : Nat) (r : PioReply) (p : Pins) (h : n < 40) (hd : n < 16 ∨ 24 ≤ n) (hi : n ≠ 30) (he : n ≠ 37) :
    Bus.bit n (pioDrive r p) = Bus.bit n p := by
  rw [pioDrive, Bus.setPorts, Bus.bit_setField_out _ _ _ _ (by omega) (by omega), Bus.bit_setField_out _ _ _ _ (by omega) (by omega),
    Bus.bit_setBit_other _ _ (by omega) _ _ (by omega), Bus.bit_setBit_other _ _ (by omega) _ _ (by omega),
    bit_driveShared_out n _ _ _ _ (by omega) hd hi he]

theorem ieio_pioDrive (r : PioReply) (p : Pins) : Bus.ieio (pioDrive r p) = (Bus.ieio p && r.ieo) := by
  rw [← ieio_driveShared (pioData r p) r.int r.ieo p, Bus.ieio, pioDrive, Bus.setPorts, Bus.bit_setField_out _ _ _ _ (by omega) (by omega),
    Bus.bit_setField_out _ _ _ _ (by omega) (by omega), Bus.bit_setBit_other _ _ (by omega) _ _ (by omega),
    Bus.bit_setBit_other _ _ (by omega) _ _ (by omega)]
  rfl

theorem int_pioDrive (r : PioReply) (p : Pins) : Bus.int (pioDrive r p) = (Bus.int p || r.int) := by
  rw [← int_driveShared (pioData r p) r.int r.ieo p, Bus.int, pioDrive, Bus.setPorts, Bus.bit_setField_out _ _ _ _ (by omega) (by omega),
    Bus.bit_setField_out _ _ _ _ (by omega) (by omega), Bus.bit_setBit_other _ _ (by omega) _ _ (by omega),
    Bus.bit_setBit_other _ _ (by omega) _ _ (by omega)]
  rfl

theorem addr_pioDrive (r : PioReply) (p : Pins) : Bus.addr (pioDrive r p) = Bus.addr p := by
  rw [← addr_driveShared (pioData r p) r.int r.ieo p, Bus.addr, pioDrive, Bus.setPorts,
    Bus.field_setField_other _ _ _ _ _ (by omega) (by omega), Bus.field_setField_other _ _ _ _ _ (by omega) (by omega),
    Bus.field_setBit_other _ _ _ _ _ (by omega) (by omega), Bus.field_setBit_other _ _ _ _ _ (by omega) (by omega)]
  rfl

theorem portA_pioDrive (r : PioReply) (p : Pins) : Bus.portA (pioDrive r p) = r.pa := by
  rw [Bus.portA, pioDrive, Bus.setPorts, Bus.field_setField_other _ _ _ _ _ (by omega) (by omega),
    Bus.field_setField_same _ _ _ (by omega)]

theorem portB_pioDrive (r : PioReply) (p : Pins) : Bus.portB (pioDrive r p) = r.pb := by
  rw [Bus.portB, pioDrive, Bus.setPorts, Bus.field_setField_same _ _ _ (by omega)]

/-- A signal outside D, INT, IEIO and the terminal counts passes the counter/timer's tick. -/
theorem bit_ctcDrive_out (n : Nat) (r : CtcReply) (p : Pins) (h : n < 40) (hd : n < 16 ∨ 24 ≤ n) (hi : n ≠ 30) (he : n ≠ 37) :
    Bus.bit n (ctcDrive r p) = Bus.bit n p := by
  rw [ctcDrive, Bus.bit_setField_out _ _ _ _ (by omega) (by omega), bit_driveShared_out n _ _ _ _ (by omega) hd hi he]

theorem ieio_ctcDrive (r : CtcReply) (p : Pins) : Bus.ieio (ctcDrive r p) = (Bus.ieio p && r.ieo) := by
  rw [← ieio_driveShared r.data r.int r.ieo p, Bus.ieio, ctcDrive, Bus.bit_setField_out _ _ _ _ (by omega) (by omega)]
  rfl

theorem int_ctcDrive (r : CtcReply) (p : Pins) : Bus.int (ctcDrive r p) = (Bus.int p || r.int) := by
  rw [← int_driveShared r.data r.int r.ieo p, Bus.int, ctcDrive, Bus.bit_setField_out _ _ _ _ (by omega) (by omega)]
  rfl

theorem addr_ctcDrive (r : CtcReply) (p : Pins) : Bus.addr (ctcDrive r p) = Bus.addr p := by
  rw [← addr_driveShared r.data r.int r.ieo p, Bus.addr, ctcDrive, Bus.field_setField_other _ _ _ _ _ (by omega) (by omega)]
  rfl

/-- A terminal-count output the counter/timer leaves. -/
theorem zcto_ctcDrive (k : Nat) (hk : k ≤ 2) (r : CtcReply) (p : Pins) : Bus.zcto k (ctcDrive r p) = r.zcto.getLsbD k := by
  rw [Bus.zcto, ctcDrive, Bus.bit_setField_in _ _ _ _ (by omega) (by omega)]
  congr 1
  omega

/-- The selects touch bits 40, 41 and 42 alone. -/
theorem bit_withSelects_out (n : Nat) (sel : BitVec 5) (p : Pins) (h : n < 64) (hn : n < 40 ∨ 42 < n) :
    Bus.bit n (withSelects sel p) = Bus.bit n p := by
  rw [withSelects, Bus.setSelects, Bus.bit_setBit_other _ _ h _ _ (by omega), Bus.bit_setBit_other _ _ h _ _ (by omega)]
  split
  · exact Bus.bit_setBit_other _ _ h _ _ (by omega)
  · rfl

theorem field_withSelects_out (lo w : Nat) (sel : BitVec 5) (p : Pins) (h : lo + w ≤ 64) (hn : lo + w ≤ 40 ∨ 43 ≤ lo) :
    Bus.field lo w (withSelects sel p) = Bus.field lo w p := by
  rw [withSelects, Bus.setSelects, Bus.field_setBit_other _ _ _ _ _ h (by omega), Bus.field_setBit_other _ _ _ _ _ h (by omega)]
  split
  · exact Bus.field_setBit_other _ _ _ _ _ h (by omega)
  · rfl

/-- The chip enable a stage hands its device, when the stage's word had the bit clear. -/
theorem ce_withSelects (sel : BitVec 5) (p : Pins) (h : Bus.ce p = false) : Bus.ce (withSelects sel p) = selected sel p := by
  rw [Bus.ce, withSelects, Bus.setSelects, Bus.bit_setBit_other _ _ (by omega) _ _ (by omega),
    Bus.bit_setBit_other _ _ (by omega) _ _ (by omega)]
  split
  · rename_i hs; rw [hs, Bus.setCe, Bus.bit_setBit_same _ (by omega)]
  · rename_i hs; rw [show Bus.bit 40 p = false from h, Bool.eq_false_iff.mpr hs]

/-- The two register selects copy A0 and A1. -/
theorem basel_withSelects (sel : BitVec 5) (p : Pins) : Bus.bit 41 (withSelects sel p) = Bus.a0 p := by
  rw [withSelects, Bus.setSelects, Bus.bit_setBit_other _ _ (by omega) _ _ (by omega), Bus.bit_setBit_same _ (by omega)]
  split
  · exact Bus.bit_setBit_other _ _ (by omega) _ _ (by omega)
  · rfl

theorem cdsel_withSelects (sel : BitVec 5) (p : Pins) : Bus.bit 42 (withSelects sel p) = Bus.a1 p := by
  rw [withSelects, Bus.setSelects, Bus.bit_setBit_same _ (by omega)]
  split
  · exact Bus.bit_setBit_other _ _ (by omega) _ _ (by omega)
  · rfl

/-- A canonical signal other than IEIO stands in the word I/O controller #1 sees. -/
theorem bit_pio1Input (n : Nat) (s : State) (h : n < 40) (he : n ≠ 37) : Bus.bit n (pio1Input s) = Bus.bit n s.pins := by
  rw [pio1Input, bit_withSelects_out _ _ _ (by omega) (by omega), chainHead, Bus.bit_setBit_other _ _ (by omega) _ _ he]

/-- A canonical signal stands in the word I/O controller #2 sees as the stage before left it. -/
theorem bit_pio2Input (n : Nat) (C : Collaborators) (s : State) (h : n < 40) : Bus.bit n (pio2Input C s) = Bus.bit n s.pins := by
  rw [pio2Input, Bus.setPorts, Bus.bit_setField_out _ _ _ _ (by omega) (by omega), Bus.bit_setField_out _ _ _ _ (by omega) (by omega),
    bit_withSelects_out _ _ _ (by omega) (by omega)]

/-- A canonical signal stands in the word the counter/timer sees as the stage before left it. -/
theorem bit_ctcInput (n : Nat) (s : State) (h : n < 40) : Bus.bit n (ctcInput s) = Bus.bit n s.pins := by
  rw [ctcInput, bit_withSelects_out _ _ _ (by omega) (by omega), Bus.setClktrg, Bus.bit_setBit_other _ _ (by omega) _ _ (by omega)]

/-- A field of canonical signals below IEIO stands in all three words as the CPU's word holds it, if no device drives into it. -/
theorem field_pio1Input (lo w : Nat) (s : State) (h : lo + w ≤ 37) : Bus.field lo w (pio1Input s) = Bus.field lo w s.pins := by
  rw [pio1Input, field_withSelects_out _ _ _ _ (by omega) (by omega), chainHead, Bus.field_setBit_other _ _ _ _ _ (by omega) (by omega)]

/-- The signals every stage passes: all canonical ones but D, INT and IEIO. -/
theorem bit_pio1Stage (n : Nat) (C : Collaborators) (s : State) (h : n < 40) (hd : n < 16 ∨ 24 ≤ n) (hi : n ≠ 30) (he : n ≠ 37) :
    Bus.bit n (pio1Stage C s).pins = Bus.bit n s.pins := by
  rw [show (pio1Stage C s).pins = Bus.mask (pioDrive (C.pioTick s.pio1 (pio1Input s)) (pio1Input s)) from rfl, Bus.bit_mask _ _ h,
    bit_pioDrive_out _ _ _ h hd hi he, bit_pio1Input _ _ h he]

theorem bit_pio2Stage (n : Nat) (C : Collaborators) (s : State) (h : n < 40) (hd : n < 16 ∨ 24 ≤ n) (hi : n ≠ 30) (he : n ≠ 37) :
    Bus.bit n (pio2Stage C s).pins = Bus.bit n s.pins := by
  rw [show (pio2Stage C s).pins = Bus.mask (pioDrive (C.pioTick s.pio2 (pio2Input C s)) (pio2Input C s)) from rfl, Bus.bit_mask _ _ h,
    bit_pioDrive_out _ _ _ h hd hi he, bit_pio2Input _ _ _ h]

theorem bit_ctcStage (n : Nat) (C : Collaborators) (s : State) (h : n < 40) (hd : n < 16 ∨ 24 ≤ n) (hi : n ≠ 30) (he : n ≠ 37) :
    Bus.bit n (ctcStage C s).pins = Bus.bit n s.pins := by
  rw [show (ctcStage C s).pins = Bus.mask (ctcDrive (C.ctcTick s.ctc (ctcInput s)) (ctcInput s)) from rfl, Bus.bit_mask _ _ h,
    bit_ctcDrive_out _ _ _ h hd hi he, bit_ctcInput _ _ h]

/-- Two words that agree on a field's bits have the same field. -/
theorem field_congr (lo w : Nat) (p q : Pins) (h : ∀ n, lo ≤ n → n < lo + w → Bus.bit n p = Bus.bit n q) :
    Bus.field lo w p = Bus.field lo w q := by
  apply BitVec.eq_of_getLsbD_eq
  intro i hi
  rw [Bus.getLsbD_field, Bus.getLsbD_field]
  congr 1
  exact h (lo + i) (by omega) (by omega)

/-- The address field passes every stage. -/
theorem addr_pio1Stage (C : Collaborators) (s : State) : Bus.addr (pio1Stage C s).pins = Bus.addr s.pins :=
  field_congr 0 16 _ _ fun n _ h => bit_pio1Stage n C s (by omega) (by omega) (by omega) (by omega)

theorem addr_pio2Stage (C : Collaborators) (s : State) : Bus.addr (pio2Stage C s).pins = Bus.addr s.pins :=
  field_congr 0 16 _ _ fun n _ h => bit_pio2Stage n C s (by omega) (by omega) (by omega) (by omega)

/-- The device-decode bits pass every stage. -/
theorem aSel_pio1Stage (C : Collaborators) (s : State) : Bus.aSel (pio1Stage C s).pins = Bus.aSel s.pins :=
  field_congr 3 5 _ _ fun n _ h => bit_pio1Stage n C s (by omega) (by omega) (by omega) (by omega)

theorem aSel_pio2Stage (C : Collaborators) (s : State) : Bus.aSel (pio2Stage C s).pins = Bus.aSel s.pins :=
  field_congr 3 5 _ _ fun n _ h => bit_pio2Stage n C s (by omega) (by omega) (by omega) (by omega)

/-- Every stage's result is canonical. -/
theorem pio1Stage_canonical (C : Collaborators) (s : State) : Bus.Canonical (pio1Stage C s).pins := Bus.canonical_mask _

theorem pio2Stage_canonical (C : Collaborators) (s : State) : Bus.Canonical (pio2Stage C s).pins := Bus.canonical_mask _

theorem ctcStage_canonical (C : Collaborators) (s : State) : Bus.Canonical (ctcStage C s).pins := Bus.canonical_mask _

/-- The peripheral phase leaves canonical pins. -/
theorem ioPhase_canonical (C : Collaborators) (s : State) : Bus.Canonical (ioPhase C s).pins := by
  rw [ioPhase_pins]
  split
  · exact Bus.canonical_setField _ _ _ (ctcStage_canonical C _) (by omega)
  · exact ctcStage_canonical C _

/-- Outside the data field the peripheral phase leaves what the stages leave. -/
theorem bit_ioPhase (n : Nat) (C : Collaborators) (s : State) (h : n < 64) (hd : n < 16 ∨ 24 ≤ n) :
    Bus.bit n (ioPhase C s).pins = Bus.bit n (chainStages C s).pins := by
  rw [ioPhase_pins]
  split
  · exact Bus.bit_setData_out _ _ _ h hd
  · rfl

/-- A canonical word has every device-local bit clear. -/
theorem bit_of_canonical (n : Nat) (p : Pins) (hp : Bus.Canonical p) (h : 40 ≤ n) : Bus.bit n p = false := by
  have := Bus.bit_mask_local n p h
  rwa [show Bus.mask p = p from hp] at this

/-! ### The dispatch -/

/-- A row outside the memory group is presented, and the peripheral phase runs. -/
theorem exec_peripheral (i : Instr) (s : State) (h : isMemoryRow i = false) :
    exec i s = .next (ioPhase s.params.chips (presentRow i s)) := by
  cases i <;> first | rfl | (simp [isMemoryRow] at h)

/-- A memory row's meaning on the word it was decoded from is step 2 as R200 writes it. -/
theorem exec_decodeMem (s : State) : exec (decodeMem s.pins) s = match Bus.mreq s.pins, Bus.rd s.pins, Bus.wr s.pins with
    | false, _, _ => .next s
    | true, true, false => .next { s with pins := Bus.setData (memRead s (Bus.addr s.pins)) s.pins }
    | true, false, true => .next (memWrite s (Bus.addr s.pins) (Bus.data s.pins))
    | true, false, false => .next s
    | true, true, true => .fault (.busReadWriteBoth (present s.params (.memRdwr (Bus.addr s.pins)) s.pins)) := by
  unfold decodeMem
  cases Bus.mreq s.pins <;> cases Bus.rd s.pins <;> cases Bus.wr s.pins <;> rfl

/-! ### The audio step -/

/-- Without a sample only the generator advances. -/
theorem audioStep_none (C : Collaborators) (s : State) (h : (C.beeperTick s.beeper).2 = none) :
    audioStep C s = { s with beeper := (C.beeperTick s.beeper).1 } := by
  simp only [audioStep, h, audioTake]

/-- With a sample the buffer takes it. -/
theorem audioStep_some (C : Collaborators) (s : State) (v : Sample) (h : (C.beeperTick s.beeper).2 = some v) :
    audioStep C s = { audioPush s v with beeper := (C.beeperTick s.beeper).1 } := by
  simp only [audioStep, h, audioTake, audioPush]

end Sys2Proof.Machine
end

