-- ==== Sys2Proof/Laws/Stages.lean ====
section
/-! SUPPORT. What each device sees of the cycle's bus word: its chip enable, its register selects, and the signals that reach it
unchanged. Proofs about a row cite these and do not unfold the stages. -/

namespace Sys2Proof.Machine

/-- A canonical word carries no chip enable. -/
theorem ce_of_canonical (p : Pins) (h : Bus.Canonical p) : Bus.ce p = false := bit_of_canonical 40 p h (by omega)

theorem chainHead_canonical (p : Pins) (h : Bus.Canonical p) : Bus.Canonical (chainHead p) := Bus.canonical_setBit 37 _ _ h (by omega)

/-- The select condition looks at IORQ and A7..A3 alone. -/
theorem selected_congr (sel : BitVec 5) (p q : Pins) (h1 : Bus.iorq p = Bus.iorq q) (h2 : Bus.aSel p = Bus.aSel q) :
    selected sel p = selected sel q := by
  unfold selected; rw [h1, h2]

theorem selected_chainHead (sel : BitVec 5) (p : Pins) : selected sel (chainHead p) = selected sel p :=
  selected_congr _ _ _ (Bus.bit_setBit_other _ _ (by omega) _ _ (by omega)) (Bus.field_setBit_other _ _ _ _ _ (by omega) (by omega))

/-- The chip enable of I/O controller #1. -/
theorem ce_pio1Input (s : State) (h : Bus.Canonical s.pins) : Bus.ce (pio1Input s) = selected s.params.pio1Sel s.pins := by
  rw [pio1Input, ce_withSelects _ _ (ce_of_canonical _ (chainHead_canonical _ h)), selected_chainHead]

/-- A device-local bit below the ports of the word I/O controller #2 sees. -/
theorem bit_pio2Input_local (n : Nat) (C : Collaborators) (s : State) (h : n < 48) :
    Bus.bit n (pio2Input C s) = Bus.bit n (withSelects s.params.pio2Sel s.pins) := by
  rw [pio2Input, Bus.setPorts, Bus.bit_setField_out _ _ _ _ (by omega) (by omega), Bus.bit_setField_out _ _ _ _ (by omega) (by omega)]

/-- The chip enable of I/O controller #2, from the word its stage begins with. -/
theorem ce_pio2Word_stage (C : Collaborators) (s : State) : Bus.ce (pio2Word C s) = selected s.params.pio2Sel (pio1Stage C s).pins := by
  rw [pio2Word, Bus.ce, bit_pio2Input_local _ _ _ (by omega)]
  exact ce_withSelects _ _ (ce_of_canonical _ (pio1Stage_canonical C s))

/-- The chip enable of the counter/timer, from the word its stage begins with. -/
theorem ce_ctcWord_stage (C : Collaborators) (s : State) :
    Bus.ce (ctcWord C s) = selected s.params.ctcSel (pio2Stage C (pio1Stage C s)).pins := by
  have h0 : Bus.ce (Bus.setClktrg s.params.cascadeDst s.ctcCascade (pio2Stage C (pio1Stage C s)).pins) = false := by
    rw [Bus.ce, Bus.setClktrg, Bus.bit_setBit_other _ _ (by omega) _ _ (by omega)]
    exact ce_of_canonical _ (pio2Stage_canonical C _)
  rw [ctcWord, ctcInput]
  refine (ce_withSelects _ _ h0).trans (selected_congr _ _ _ ?_ ?_)
  · exact Bus.bit_setBit_other _ _ (by omega) _ _ (by omega)
  · exact Bus.field_setBit_other _ _ _ _ _ (by omega) (by omega)

/-- The chip enables of the later devices, from the word the cycle began with. -/
theorem ce_pio2Word (C : Collaborators) (s : State) : Bus.ce (pio2Word C s) = selected s.params.pio2Sel s.pins := by
  rw [ce_pio2Word_stage]
  exact selected_congr _ _ _ (bit_pio1Stage 26 C s (by omega) (by omega) (by omega) (by omega)) (aSel_pio1Stage C s)

theorem ce_ctcWord (C : Collaborators) (s : State) : Bus.ce (ctcWord C s) = selected s.params.ctcSel s.pins := by
  rw [ce_ctcWord_stage]
  exact selected_congr _ _ _
    ((bit_pio2Stage 26 C _ (by omega) (by omega) (by omega) (by omega)).trans
      (bit_pio1Stage 26 C s (by omega) (by omega) (by omega) (by omega)))
    ((aSel_pio2Stage C _).trans (aSel_pio1Stage C s))

/-- The signals that reach the later devices as the CPU set them. -/
theorem bit_pio2Word (n : Nat) (C : Collaborators) (s : State) (h : n < 40) (hd : n < 16 ∨ 24 ≤ n) (hi : n ≠ 30) (he : n ≠ 37) :
    Bus.bit n (pio2Word C s) = Bus.bit n s.pins := by
  rw [pio2Word, bit_pio2Input _ _ _ h, bit_pio1Stage _ _ _ h hd hi he]

theorem bit_ctcWord (n : Nat) (C : Collaborators) (s : State) (h : n < 40) (hd : n < 16 ∨ 24 ≤ n) (hi : n ≠ 30) (he : n ≠ 37) :
    Bus.bit n (ctcWord C s) = Bus.bit n s.pins := by
  rw [ctcWord, bit_ctcInput _ _ h, bit_pio2Stage _ _ _ h hd hi he, bit_pio1Stage _ _ _ h hd hi he]

/-- The register selects of each device: A0 and A1. -/
theorem selects_pio1Input (s : State) : Bus.bit 41 (pio1Input s) = Bus.a0 s.pins ∧ Bus.bit 42 (pio1Input s) = Bus.a1 s.pins := by
  rw [pio1Input, basel_withSelects, cdsel_withSelects]
  exact ⟨Bus.bit_setBit_other _ _ (by omega) _ _ (by omega), Bus.bit_setBit_other _ _ (by omega) _ _ (by omega)⟩

theorem selects_pio2Word (C : Collaborators) (s : State) :
    Bus.bit 41 (pio2Word C s) = Bus.a0 s.pins ∧ Bus.bit 42 (pio2Word C s) = Bus.a1 s.pins := by
  rw [pio2Word, bit_pio2Input_local _ _ _ (by omega), bit_pio2Input_local _ _ _ (by omega), basel_withSelects, cdsel_withSelects]
  exact ⟨bit_pio1Stage 0 C s (by omega) (by omega) (by omega) (by omega), bit_pio1Stage 1 C s (by omega) (by omega) (by omega) (by omega)⟩

theorem selects_ctcWord (C : Collaborators) (s : State) :
    Bus.bit 41 (ctcWord C s) = Bus.a0 s.pins ∧ Bus.bit 42 (ctcWord C s) = Bus.a1 s.pins := by
  have h : ∀ n, n < 2 → ∀ k b, Bus.bit n (Bus.setClktrg k b (pio2Stage C (pio1Stage C s)).pins) = Bus.bit n s.pins := by
    intro n hn k b
    rw [Bus.setClktrg, Bus.bit_setBit_other _ _ (by omega) _ _ (by omega),
      bit_pio2Stage _ _ _ (by omega) (by omega) (by omega) (by omega), bit_pio1Stage _ _ _ (by omega) (by omega) (by omega) (by omega)]
  rw [ctcWord, ctcInput, basel_withSelects, cdsel_withSelects]
  exact ⟨h 0 (by omega) _ _, h 1 (by omega) _ _⟩

/-- The data field a controller leaves: what it drives, else what stood there. -/
theorem data_pioDrive (r : PioReply) (p : Pins) : Bus.data (pioDrive r p) = (pioData r p).getD (Bus.data p) := by
  unfold pioDrive Bus.setPorts driveShared Bus.data
  rw [Bus.field_setField_other _ _ _ _ _ (by omega) (by omega), Bus.field_setField_other _ _ _ _ _ (by omega) (by omega),
    Bus.field_setBit_other _ _ _ _ _ (by omega) (by omega), Bus.field_setBit_other _ _ _ _ _ (by omega) (by omega),
    Bus.field_setBit_other _ _ _ _ _ (by omega) (by omega), Bus.field_setBit_other _ _ _ _ _ (by omega) (by omega)]
  cases pioData r p with
  | none => rfl
  | some d => exact Bus.data_setData d p

/-- The data field of each device's word: the CPU's, until an earlier device drives it. -/
theorem data_pio1Input (s : State) : Bus.data (pio1Input s) = Bus.data s.pins := field_pio1Input 16 8 s (by omega)

theorem data_pio2Word (C : Collaborators) (s : State) :
    Bus.data (pio2Word C s) = (pioData (C.pioTick s.pio1 (pio1Input s)) (pio1Input s)).getD (Bus.data s.pins) := by
  have e : Bus.data (pio2Word C s) = Bus.data (pio1Stage C s).pins :=
    field_congr 16 8 _ _ fun n _ hn => bit_pio2Input n C _ (by omega)
  rw [e, show (pio1Stage C s).pins = Bus.mask (pioDrive (C.pioTick s.pio1 (pio1Input s)) (pio1Input s)) from rfl, Bus.data,
    Bus.field_mask _ _ _ (by omega)]
  exact (data_pioDrive _ _).trans (by rw [data_pio1Input])

theorem data_ctcWord (C : Collaborators) (s : State) : Bus.data (ctcWord C s) =
    (pioData (C.pioTick s.pio2 (pio2Word C s)) (pio2Word C s)).getD
      ((pioData (C.pioTick s.pio1 (pio1Input s)) (pio1Input s)).getD (Bus.data s.pins)) := by
  have e : Bus.data (ctcWord C s) = Bus.data (pio2Stage C (pio1Stage C s)).pins :=
    field_congr 16 8 _ _ fun n _ hn => bit_ctcInput n _ (by omega)
  rw [e, show (pio2Stage C (pio1Stage C s)).pins = Bus.mask (pioDrive (C.pioTick s.pio2 (pio2Word C s)) (pio2Word C s)) from rfl, Bus.data,
    Bus.field_mask _ _ _ (by omega)]
  exact (data_pioDrive _ _).trans (by rw [data_pio2Word])

/-- The enable input of each device. -/
theorem ieio_pio1Input (s : State) : Bus.ieio (pio1Input s) = true := by
  rw [Bus.ieio, pio1Input, bit_withSelects_out _ _ _ (by omega) (by omega)]
  exact Bus.bit_setBit_same 37 (by omega) true _

theorem ieio_pio2Word (C : Collaborators) (s : State) : Bus.ieio (pio2Word C s) = Bus.ieio (pioTick C s.pio1 (pio1Input s)).2 :=
  (bit_pio2Input 37 C _ (by omega)).trans (Bus.bit_mask 37 _ (by omega))

theorem ieio_ctcWord (C : Collaborators) (s : State) : Bus.ieio (ctcWord C s) = Bus.ieio (pioTick C s.pio2 (pio2Word C s)).2 :=
  (bit_ctcInput 37 _ (by omega)).trans (Bus.bit_mask 37 _ (by omega))

/-- The enable the peripheral phase returns. -/
theorem ieio_ioPhase (C : Collaborators) (s : State) : Bus.ieio (ioPhase C s).pins = Bus.ieio (ctcTick C s.ctc (ctcWord C s)).2 :=
  (bit_ioPhase 37 C s (by omega) (by omega)).trans (Bus.bit_mask 37 _ (by omega))

/-- The request line along the chain. -/
theorem int_pio2Word (C : Collaborators) (s : State) :
    Bus.int (pio2Word C s) = (Bus.int s.pins || (C.pioTick s.pio1 (pio1Input s)).int) := by
  refine (bit_pio2Input 30 C _ (by omega)).trans ((Bus.bit_mask 30 _ (by omega)).trans ((int_pioDrive _ _).trans ?_))
  rw [Bus.int, bit_pio1Input 30 s (by omega) (by omega)]; rfl

theorem int_ctcWord (C : Collaborators) (s : State) :
    Bus.int (ctcWord C s) =
      (Bus.int s.pins || (C.pioTick s.pio1 (pio1Input s)).int || (C.pioTick s.pio2 (pio2Word C s)).int) := by
  refine (bit_ctcInput 30 _ (by omega)).trans ((Bus.bit_mask 30 _ (by omega)).trans ((int_pioDrive _ _).trans ?_))
  show (Bus.int (pio2Word C s) || _) = _
  rw [int_pio2Word]; rfl

theorem int_ioPhase (C : Collaborators) (s : State) : Bus.int (ioPhase C s).pins =
    (Bus.int (ctcWord C s) || (C.ctcTick s.ctc (ctcWord C s)).int) :=
  (bit_ioPhase 30 C s (by omega) (by omega)).trans ((Bus.bit_mask 30 _ (by omega)).trans (int_ctcDrive _ _))

end Sys2Proof.Machine
end

