-- ==== Sys2Proof/Laws/Tick.lean ====
section
/-! SUPPORT. What step 2 and the small steps of a Tick can do, said once. -/

namespace Sys2Proof.Machine

/-- Step 2 on a legal bus word completes. -/
theorem memPhase_legal (s : State) (h : cpuWordLegal s.pins = true) : ∃ t, memPhase s = .next t := by
  unfold memPhase
  revert h
  unfold cpuWordLegal
  cases Bus.mreq s.pins <;> cases Bus.rd s.pins <;> cases Bus.wr s.pins <;> intro h <;> first | exact ⟨_, rfl⟩ | cases h

/-- Step 2 on the illegal bus word faults with it. -/
theorem memPhase_illegal (s : State) (h : cpuWordLegal s.pins = false) : memPhase s = .fault (.busReadWriteBoth s.pins) := by
  unfold memPhase
  revert h
  unfold cpuWordLegal
  cases Bus.mreq s.pins <;> cases Bus.rd s.pins <;> cases Bus.wr s.pins <;> intro h <;> first | rfl | cases h

/-- Everything step 2 can leave: the state, the state with a byte read on its data field, or the state with a byte written. -/
theorem memPhase_cases {s t : State} (h : memPhase s = .next t) :
    (t = s ∧ (Bus.mreq s.pins && Bus.wr s.pins) = false) ∨
    (t = { s with pins := Bus.setData (memRead s (Bus.addr s.pins)) s.pins } ∧ (Bus.mreq s.pins && Bus.wr s.pins) = false) ∨
    (t = memWrite s (Bus.addr s.pins) (Bus.data s.pins) ∧ (Bus.mreq s.pins && Bus.wr s.pins) = true) := by
  unfold memPhase at h
  cases h1 : Bus.mreq s.pins <;> cases h2 : Bus.rd s.pins <;> cases h3 : Bus.wr s.pins <;> simp [h1, h2, h3] at h <;> subst h <;> simp

/-- Step 2 keeps the configuration, so the same collaborators go on. -/
theorem memPhase_params {s t : State} (h : memPhase s = .next t) : t.params = s.params := by
  rcases memPhase_cases h with ⟨rfl, _⟩ | ⟨rfl, _⟩ | ⟨rfl, _⟩ <;> rfl

/-- Sequencing that completes: the first operation completed. -/
theorem andThen_completes {α β : Type} {o : Host.Outcome α Fault Refusal} {f : α → Host.Outcome β Fault Refusal} {b : β}
    (h : andThen o f = .next b) : ∃ a, o = .next a ∧ f a = .next b := by
  cases o with
  | next a => exact ⟨a, rfl, h⟩
  | fault r => cases h
  | refused r => cases h

theorem bit_setData (n : Nat) (d : Byte) (p : Pins) (h : n < 64) (ho : n < 16 ∨ 24 ≤ n) : Bus.bit n (Bus.setData d p) = Bus.bit n p :=
  Bus.bit_setData_out n d p h ho

theorem field_setData (lo w : Nat) (d : Byte) (p : Pins) (h : lo + w ≤ 16) : Bus.field lo w (Bus.setData d p) = Bus.field lo w p :=
  Bus.field_setField_other lo w 16 d p (by omega) (by omega)

/-- The register row of a device, after the data field changed. -/
theorem decodeReg_setData (r0 r1 r2 r3 : Byte → Bool → Bool → Instr) (d : Byte) (p : Pins)
    (h : ∀ r ∈ [r0, r1, r2, r3], ∀ x rd wr, (r x rd wr).withData d = r d rd wr) :
    decodeReg r0 r1 r2 r3 (Bus.setData d p) = (decodeReg r0 r1 r2 r3 p).withData d := by
  simp only [decodeReg, Bus.a0, Bus.a1, Bus.rd, Bus.wr, Bus.data_setData, bit_setData 0 d p (by omega) (by omega),
    bit_setData 1 d p (by omega) (by omega), bit_setData 27 d p (by omega) (by omega), bit_setData 28 d p (by omega) (by omega)]
  cases Bus.bit 0 p <;> cases Bus.bit 1 p <;> exact (h _ (by simp) _ _ _).symm

/-- The unmapped row, after the data field changed. -/
theorem decodeUnmapped_setData (d : Byte) (p : Pins) : decodeUnmapped (Bus.setData d p) = (decodeUnmapped p).withData d := by
  simp only [decodeUnmapped, Bus.rd, Bus.wr, Bus.data_setData, bit_setData 7 d p (by omega) (by omega),
    bit_setData 6 d p (by omega) (by omega), bit_setData 5 d p (by omega) (by omega), bit_setData 27 d p (by omega) (by omega),
    bit_setData 28 d p (by omega) (by omega), field_setData 3 4 d p (by omega), field_setData 3 3 d p (by omega),
    field_setData 3 2 d p (by omega)]
  cases Bus.bit 7 p <;> cases Bus.bit 6 p <;> cases Bus.bit 5 p <;> rfl

/-- The I/O row, after the data field changed. -/
theorem decodeIo_setData (P : Params) (d : Byte) (p : Pins) : decodeIo P (Bus.setData d p) = (decodeIo P p).withData d := by
  have ha : Bus.aSel (Bus.setData d p) = Bus.aSel p := field_setData 3 5 d p (by omega)
  have hi : Bus.iorq (Bus.setData d p) = Bus.iorq p := bit_setData 26 d p (by omega) (by omega)
  rw [decodeIo, decodeIo, ha, hi, apply_ite (Instr.withData · d), apply_ite (Instr.withData · d), apply_ite (Instr.withData · d),
    apply_ite (Instr.withData · d), decodeUnmapped_setData]
  congr 1
  congr 1
  · exact decodeReg_setData _ _ _ _ d p (by simp [Instr.withData])
  congr 1
  · exact decodeReg_setData _ _ _ _ d p (by simp [Instr.withData])
  congr 1
  exact decodeReg_setData _ _ _ _ d p (by simp [Instr.withData])

/-- Decoding again after the data field changed gives the row with the new data. -/
theorem decodeBus_setData (P : Params) (d : Byte) (p : Pins) : decodeBus P (Bus.setData d p) = (decodeBus P p).withData d := by
  have hi : Bus.isInta (Bus.setData d p) = Bus.isInta p := by
    simp only [Bus.isInta, Bus.m1, Bus.iorq, bit_setData 24 d p (by omega) (by omega), bit_setData 26 d p (by omega) (by omega)]
  have hr : Bus.reti (Bus.setData d p) = Bus.reti p := bit_setData 38 d p (by omega) (by omega)
  rw [decodeBus, decodeBus, decodeAck, decodeAck, decodeSig, decodeSig, hi, hr, Bus.addr_setData, decodeIo_setData]
  cases Bus.isInta p <;> cases Bus.reti p <;> rfl

/-- A row carries its word's own data. -/
theorem decodeBus_withData (P : Params) (p : Pins) : (decodeBus P p).withData (Bus.data p) = decodeBus P p := by
  have h : Bus.setData (Bus.data p) p = p := Bus.setField_self 16 (Bus.data p) p rfl
  rw [← decodeBus_setData, h]

/-- Sequencing is associative. -/
theorem andThen_assoc {α β γ : Type} (o : Host.Outcome α Fault Refusal) (f : α → Host.Outcome β Fault Refusal)
    (g : β → Host.Outcome γ Fault Refusal) : andThen (andThen o f) g = andThen o fun a => andThen (f a) g := by
  cases o <;> rfl

/-- Decoding the peripheral row from the cycle's word is decoding it from the word step 2 leaves. -/
theorem runRows_eq (s : State) :
    runRows s = andThen (exec (decodeMem s.pins) s) fun t => exec (decodeBus t.params t.pins) t := by
  rw [runRows, exec_decodeMem]
  cases Bus.mreq s.pins <;> cases Bus.rd s.pins <;> cases Bus.wr s.pins <;>
    simp only [andThen, decodeBus_withData, decodeBus_setData, Bus.data_setData, memWrite_pins, memWrite_params]

/-- The blink counter never exceeds the reload value. -/
theorem blinkStep_le (s : State) (h : s.blinkCounter ≤ blinkReload s.params) : (blinkStep s).blinkCounter ≤ blinkReload s.params := by
  rw [blinkStep_blinkCounter]
  split
  · exact BitVec.le_refl _
  · rename_i hn
    have : s.blinkCounter.toNat ≠ 0 := fun e => hn (BitVec.eq_of_toNat_eq e)
    bv_omega

/-- The flip touches bit 7 alone, and twice is nothing. -/
theorem blinkFlip_bits (ff : BitVec 8) :
    (blinkFlip ff).getLsbD 7 = (!ff.getLsbD 7) ∧ (∀ n, n < 7 → (blinkFlip ff).getLsbD n = ff.getLsbD n) ∧
      blinkFlip (blinkFlip ff) = ff := by
  revert ff; decide

/-- A hook call leaves everything but the hook's flag, the events and the draws. -/
theorem hookCall_none (draw : Nat → Bool) (s : State) (h : s.hook = none) : hookCall draw s = s := by
  obtain ⟨⟩ := s
  simp only at h
  subst h
  rfl

end Sys2Proof.Machine
end

