-- ==== Sys2Proof/Laws/Video.lean ====
section
/-! SUPPORT. What a video decode writes: which framebuffer bytes, and that no two pixels share one. Proofs cite these and never unfold
the list of pixel writes. -/

namespace Sys2Proof.Machine

/-- The pixel writes of a decode, one for every visible position. -/
theorem mem_pixelWrites (s : State) (w : Nat × Byte) : w ∈ pixelWrites s ↔
    ∃ r py c k, r < 24 ∧ py < 8 ∧ c < 40 ∧ k < 8 ∧ w = (pixelIndex r py c k, pixelAt s r py c k) := by
  simp only [pixelWrites, List.mem_flatMap, List.mem_map, List.mem_range]
  constructor
  · rintro ⟨r, hr, py, hp, c, hc, k, hk, rfl⟩; exact ⟨r, py, c, k, hr, hp, hc, hk, rfl⟩
  · rintro ⟨r, py, c, k, hr, hp, hc, hk, rfl⟩; exact ⟨r, hr, py, hp, c, hc, k, hk, rfl⟩

/-- No two pixels share a framebuffer byte. -/
theorem pixelIndex_inj {r py c k r' py' c' k' : Nat} (h1 : py < 8) (h2 : c < 40) (h3 : k < 8) (h1' : py' < 8) (h2' : c' < 40)
    (h3' : k' < 8) (h : pixelIndex r py c k = pixelIndex r' py' c' k') : r = r' ∧ py = py' ∧ c = c' ∧ k = k' := by
  unfold pixelIndex at h; omega

theorem pixelIndex_eq (r py c k : Nat) : 512 * (8 * r + py) + 8 * c + k = pixelIndex r py c k := by rw [pixelIndex]

theorem decodedFb_eq (s : State) : decodedFb s = cellWriteAll fbBg s.fb (pixelWrites s) := by rw [decodedFb]

theorem fbRead_eq (s : State) (i : Nat) : fbRead s i = cellRead fbBg s.fb i := by rw [fbRead]

theorem cellRead_decodedFb (s : State) (i : Nat) :
    cellRead fbBg (decodedFb s) i = cellRead fbBg (cellWriteAll fbBg s.fb (pixelWrites s)) i := by rw [decodedFb_eq]

/-- A framebuffer byte after a decode. -/
theorem fbRead_videoDecode (s : State) (i : Nat) :
    fbRead (videoDecode s) i = cellRead fbBg (cellWriteAll fbBg s.fb (pixelWrites s)) i :=
  (fbRead_eq (videoDecode s) i).trans
    ((congrArg (fun m => cellRead fbBg m i) (videoDecode_fb s)).trans (cellRead_decodedFb s i))

/-- A decode keeps the framebuffer canonical and of its size. -/
theorem decodedFb_wf (s : State) (h : cellsWf fbBg s.fb = true) : cellsWf fbBg (decodedFb s) = true := by
  rw [decodedFb_eq]; exact cellsWf_writeAll _ _ _ h

theorem decodedFb_below (s : State) (h : cellsBelow 98304 s.fb = true) : cellsBelow 98304 (decodedFb s) = true := by
  rw [decodedFb_eq]
  refine cellsBelow_writeAll _ _ _ _ h fun w hw => ?_
  obtain ⟨r, py, c, k, h0, h1, h2, h3, rfl⟩ := (mem_pixelWrites s w).1 hw
  show pixelIndex r py c k < 98304
  unfold pixelIndex; omega

/-- A decode changes the framebuffer alone. -/
theorem videoDecode_eq (s : State) : videoDecode s = withFb s (decodedFb s) := by rw [videoDecode]

/-- A decode does not change what the next one paints. -/
theorem pixelAt_withFb (s : State) (fb : List Host.Cell) (r py c k : Nat) : pixelAt (withFb s fb) r py c k = pixelAt s r py c k := rfl

/-- The two colours of an attribute byte (R303, R304). -/
theorem attrColours_fst (on : Bool) (at8 : Byte) :
    (attrColours on at8).1 = if attrBlink at8 && on then attrBg at8 else attrFg at8 := by
  unfold attrColours; split <;> rfl

theorem attrColours_snd (on : Bool) (at8 : Byte) :
    (attrColours on at8).2 = if attrBlink at8 && on then attrFg at8 else attrBg at8 := by
  unfold attrColours; split <;> rfl

end Sys2Proof.Machine
end

