-- ==== Sys2Proof/Laws/Driver.lean ====
section
/-! SUPPORT. The instance check, Init's checks and the loop of Execute, said once. -/

namespace Sys2Proof.Machine

/-- An operation on a valid instance is the operation. -/
theorem checked_valid {α : Type} (op : HostOp) (s : State) (f : State → Host.Outcome α Fault Refusal) (h : s.valid = true) :
    checked op (some s) f = f s := by
  simp only [checked]; rw [if_pos h]

/-- An operation on an invalid instance faults. -/
theorem checked_invalid {α : Type} (op : HostOp) (s : State) (f : State → Host.Outcome α Fault Refusal) (h : s.valid = false) :
    checked op (some s) f = .fault (.invalidInstance op) := by
  simp only [checked]; rw [if_neg (by rw [h]; exact Bool.false_ne_true)]

/-- Everything an operation on a judged argument does to a valid instance. -/
theorem checkedOffer_valid {α : Type} (op : HostOp) (s : State) (arg : Option (Offered α)) (effect : α → State → State) (h : s.valid = true) :
    checkedOffer op (some s) arg effect = match arg with
      | none => .fault (.nullArgument op)
      | some .rejected => .next (s, false)
      | some (.accepted a) => .next (effect a s, true) := checked_valid op s _ h

/-- On an invalid instance it faults, whatever the argument. -/
theorem checkedOffer_invalid {α : Type} (op : HostOp) (s : State) (arg : Option (Offered α)) (effect : α → State → State)
    (h : s.valid = false) : checkedOffer op (some s) arg effect = .fault (.invalidInstance op) := checked_invalid op s _ h

/-- An operation that completes ran on a valid instance. -/
theorem checked_next {α : Type} {op : HostOp} {s : State} {f : State → Host.Outcome α Fault Refusal} {a : α}
    (h : checked op (some s) f = .next a) : s.valid = true ∧ f s = .next a := by
  cases hv : s.valid with
  | true => rw [checked_valid op s f hv] at h; exact ⟨rfl, h⟩
  | false => rw [checked_invalid op s f hv] at h; cases h

/-- No check fails exactly when the configuration is well formed. -/
theorem failedCheck_none (P : Params) (v : Variant) (n : Nat) : failedCheck P v n = none ↔ configWf P v n = true := by
  rw [failedCheck, configWf, Option.map_eq_none_iff, List.find?_eq_none, List.all_eq_true]
  constructor
  · intro h x hx; simpa using h x hx
  · intro h x hx; simp [h x hx]

/-- A well-formed configuration's map is well formed. -/
theorem configWf_map {P : Params} {v : Variant} {n : Nat} (h : configWf P v n = true) : mapWf P v (memoryMap P v) = true := by
  simp only [configWf, configChecks, List.all_cons, Bool.and_eq_true] at h
  simp [mapWf, h]

/-- ROM images that pass their checks have the expected sizes. -/
theorem romMismatch_none {k : Nat} {ns : List Nat} {ims : List (Option (List Byte))} (h : romMismatch k ns ims = none)
    (hl : ns.length ≤ ims.length) : ims.map (fun im => (im.getD []).length) = ns := by
  induction ims generalizing k ns with
  | nil =>
    cases ns with
    | nil => rfl
    | cons => simp at hl
  | cons im ims ih =>
    cases ns with
    | nil => simp [romMismatch] at h
    | cons n ns =>
      rw [romMismatch] at h
      split at h
      · rename_i e
        rw [List.map_cons, e, ih h (by simpa using hl)]
      · cases h

theorem romSize_eq (P : Params) (v : Variant) : romSize P v = (romImages P v).sum := by
  have h : ∀ (l : List Nat) (a : Nat), l.foldl (· + ·) a = a + l.sum := by
    intro l
    induction l with
    | nil => intro a; rfl
    | cons x l ih => intro a; rw [List.foldl_cons, ih, List.sum_cons, Nat.add_assoc]
  rw [romSize, h, Nat.zero_add]

/-- The ROM block is as long as its images together. -/
theorem romBytes_length (ims : List (Option (List Byte))) :
    (romBytes ims).length = (ims.map fun im => (im.getD []).length).sum := by
  rw [romBytes, List.length_flatMap]

/-- A sequence of memory writes changes the RAM block only. -/
theorem memWriteAll_frame (s : State) (ws : List (Addr × Byte)) : memWriteAll s ws = { s with ram := (memWriteAll s ws).ram } := by
  induction ws generalizing s with
  | nil => rfl
  | cons w ws ih => exact ih _

/-- A sequence of memory writes is a fold of single ones. -/
theorem memWriteAll_foldl (s : State) (ws : List (Addr × Byte)) :
    memWriteAll s ws = ws.foldl (fun u w => memWrite u w.1 w.2) s := by
  induction ws generalizing s with
  | nil => rfl
  | cons w ws ih => exact ih _

/-- Everything an accepted load leaves but the RAM block and the CPU. -/
theorem loadState_frame (img : LoadImage) (s : State) :
    loadState img s = { s with ram := (memWriteAll s img.writes).ram, cpu := (loadState img s).cpu } := by
  rw [loadState]
  cases img.entry <;> simp only <;> rw [memWriteAll_frame]

/-- A set flag ends the loop before its first Tick. -/
theorem runCycles_stopped (draw : Nat → Bool) (k i : Nat) (s : State) (h : hookStopped s = true) :
    runCycles draw k i s = .next (s, i) := by
  cases k with
  | zero => rfl
  | succ k => rw [runCycles, if_pos h]

/-- What every cycle keeps, the loop keeps. -/
theorem runCycles_keeps (draw : Nat → Bool) (I : State → Prop) (hI : ∀ s t, I s → cycle draw s = .next t → I t) (k i : Nat) {s t : State}
    {n : Nat} (h : runCycles draw k i s = .next (t, n)) (hs : I s) : I t := by
  induction k generalizing i s with
  | zero => simp only [runCycles] at h; cases h; exact hs
  | succ k ih =>
    rw [runCycles] at h
    split at h
    · cases h; exact hs
    · obtain ⟨u, hu, h⟩ := andThen_completes h
      exact ih _ h (hI s u hs hu)

end Sys2Proof.Machine
end

