-- ==== Sys2Proof/Laws/PerInstr.lean ====
section
/-! SUPPORT. What holds of every row as syntax, one lemma per constructor: its encoded bus word is canonical (30_encoding R152), so the
encoder sets no device-local signal. -/

namespace Sys2Proof.Laws.CanonicalEncoding

/-- The bus word of the row carries canonical bits only. -/
def Statement (i : Instr) : Prop := ∀ P : Params, Bus.Canonical (encode P i)

theorem memNone : Statement (.memNone) := fun P => present_canonical P _ 0#64 (by decide)

theorem memRd (a : Addr) : Statement (.memRd a) := fun P => present_canonical P _ 0#64 (by decide)

theorem memWr (a : Addr) (d : Byte) : Statement (.memWr a d) := fun P => present_canonical P _ 0#64 (by decide)

theorem memNoacc (a : Addr) : Statement (.memNoacc a) := fun P => present_canonical P _ 0#64 (by decide)

theorem memRdwr (a : Addr) : Statement (.memRdwr a) := fun P => present_canonical P _ 0#64 (by decide)

theorem ctcCh0 (d : Byte) (rd : Bool) (wr : Bool) : Statement (.ctcCh0 d rd wr) := fun P => present_canonical P _ 0#64 (by decide)

theorem ctcCh1 (d : Byte) (rd : Bool) (wr : Bool) : Statement (.ctcCh1 d rd wr) := fun P => present_canonical P _ 0#64 (by decide)

theorem ctcCh2 (d : Byte) (rd : Bool) (wr : Bool) : Statement (.ctcCh2 d rd wr) := fun P => present_canonical P _ 0#64 (by decide)

theorem ctcCh3 (d : Byte) (rd : Bool) (wr : Bool) : Statement (.ctcCh3 d rd wr) := fun P => present_canonical P _ 0#64 (by decide)

theorem pio1DataA (d : Byte) (rd : Bool) (wr : Bool) : Statement (.pio1DataA d rd wr) := fun P => present_canonical P _ 0#64 (by decide)

theorem pio1DataB (d : Byte) (rd : Bool) (wr : Bool) : Statement (.pio1DataB d rd wr) := fun P => present_canonical P _ 0#64 (by decide)

theorem pio1CtrlA (d : Byte) (rd : Bool) (wr : Bool) : Statement (.pio1CtrlA d rd wr) := fun P => present_canonical P _ 0#64 (by decide)

theorem pio1CtrlB (d : Byte) (rd : Bool) (wr : Bool) : Statement (.pio1CtrlB d rd wr) := fun P => present_canonical P _ 0#64 (by decide)

theorem pio2DataA (d : Byte) (rd : Bool) (wr : Bool) : Statement (.pio2DataA d rd wr) := fun P => present_canonical P _ 0#64 (by decide)

theorem pio2DataB (d : Byte) (rd : Bool) (wr : Bool) : Statement (.pio2DataB d rd wr) := fun P => present_canonical P _ 0#64 (by decide)

theorem pio2CtrlA (d : Byte) (rd : Bool) (wr : Bool) : Statement (.pio2CtrlA d rd wr) := fun P => present_canonical P _ 0#64 (by decide)

theorem pio2CtrlB (d : Byte) (rd : Bool) (wr : Bool) : Statement (.pio2CtrlB d rd wr) := fun P => present_canonical P _ 0#64 (by decide)

theorem ioNone : Statement (.ioNone) := fun P => present_canonical P _ 0#64 (by decide)

theorem ioUnmappedLo (low : BitVec 4) (d : Byte) (rd : Bool) (wr : Bool) : Statement (.ioUnmappedLo low d rd wr) := fun P => present_canonical P _ 0#64 (by decide)

theorem ioUnmappedHi (low : BitVec 3) (d : Byte) (rd : Bool) (wr : Bool) : Statement (.ioUnmappedHi low d rd wr) := fun P => present_canonical P _ 0#64 (by decide)

theorem ioUnmappedA0 (low : BitVec 2) (d : Byte) (rd : Bool) (wr : Bool) : Statement (.ioUnmappedA0 low d rd wr) := fun P => present_canonical P _ 0#64 (by decide)

theorem ioUnmapped98 (low : BitVec 2) (d : Byte) (rd : Bool) (wr : Bool) : Statement (.ioUnmapped98 low d rd wr) := fun P => present_canonical P _ 0#64 (by decide)

theorem inta (a : Addr) : Statement (.inta a) := fun P => present_canonical P _ 0#64 (by decide)

theorem reti : Statement (.reti) := fun P => present_canonical P _ 0#64 (by decide)

end Sys2Proof.Laws.CanonicalEncoding
end

