-- ==== Sys2Proof/Tests/Slice0.lean ====
section
/-! SUPPORT. Tests. The expected values are 95_test_vectors', whose test configuration `stub`, `testMap` and `testState` write down;
and a named witness for the hypotheses of every statement that has some. -/

open Sys2Proof Sys2Proof.Machine

namespace Sys2Proof.Tests

set_option Elab.async false

/-- The I/O controller stub of 95_test_vectors section 2, in its seven steps; its state is [req, ius, vec]. -/
def reqTick (st : PioState) (p : Pins) : PioReply :=
  let req := st.code.getD 0 0 == 1
  let ius := st.code.getD 1 0 == 1
  let vec := st.code.getD 2 0
  let io := Bus.iorq p && !Bus.m1 p && Bus.ce p
  let arm := io && Bus.wr p && Bus.cdsel p
  let vec1 := if arm then (Bus.data p).toNat else vec
  let req1 := req || arm
  let read := if io && Bus.rd p && !Bus.cdsel p then some (if Bus.basel p then Bus.portB p else Bus.portA p) else none
  let ack := Bus.isInta p && Bus.ieio p && req1 && !ius
  let ius2 := ius || ack
  let req2 := req1 && !ack
  let ius3 := ius2 && !(Bus.reti p && Bus.ieio p)
  { state := ⟨[req2.toNat, ius3.toNat, vec1]⟩
    data := if ack then some (BitVec.ofNat 8 vec1) else read
    int := req2 && !ius3
    ieo := !(req || ius || req2 || ius3)
    ardy := false, brdy := false, pa := Bus.portA p, pb := Bus.portB p }

/-- The counter/timer stub: it plays the terminal-count outputs its state lists, and touches nothing else. -/
def zctoTick (st : CtcState) (p : Pins) : CtcReply :=
  { state := ⟨st.code.tail⟩, data := none, int := false, ieo := Bus.ieio p, zcto := BitVec.ofNat 3 (st.code.getD 0 0) }

/-- The collaborators of the test configuration. -/
def stub : Collaborators where
  cpuTick c _ := (c, 0#64)
  cpuInit := ⟨0#16, []⟩
  cpuReset c := (c, 0#64)
  cpuSetEntry c a := { c with pc := a }
  pioTick := reqTick
  pioReset := ⟨[0, 0, 0]⟩
  ctcTick := zctoTick
  ctcReset := ⟨[]⟩
  beeperToggle b := ⟨[1 - b.code.getD 0 0]⟩
  beeperTick b := (b, some ⟨b.code.getD 0 0⟩)
  beeperReset _ _ := ⟨[0]⟩
  kbdScanColumns _ := 0x04#8
  kbdScanLines _ := 0x10#8
  kbdSetActiveColumns k c := ⟨[c.toNat, k.code.getD 1 0]⟩
  kbdSetActiveLines k l := ⟨[k.code.getD 0 0, l.toNat]⟩
  kbdUpdate k _ := k
  kbdInit := ⟨[0, 0]⟩
  kbdKeyDown k _ := k
  kbdKeyUp k _ := k

/-- The map of the test configuration. -/
def testMap : List Binding :=
  [{ layer := 0, base := 0x0000, size := 0x8000, store := .ram, offset := 0, readOnly := false },
   { layer := 0, base := 0xC000, size := 0x4000, store := .rom, offset := 0, readOnly := true },
   { layer := 1, base := 0xE800, size := 0x0800, store := .ram, offset := 0xE800, readOnly := false }]

/-- Its parameters. -/
def testParams : Params := { referenceParams with romImagesColor := [0x4000], mapColor := testMap }

/-- A state of the test configuration about to run the word `w`, with the two I/O controllers in given states. -/
def testState (w : Pins) (one two : List Nat) : State :=
  { State.reset with
    params := testParams, map := testMap, audioN := 4
    cpu := .scripted { lines := [w], pos := 0, entry := 0xF000#16, seen := [] }
    pio1 := ⟨one⟩, pio2 := ⟨two⟩, ctc := ⟨[]⟩, beeper := ⟨[0]⟩, kbd := ⟨[0, 0]⟩
    ram := [(0x88, 0x77#8), (0x1234, 0x3E#8), (0x7FFF, 0#8), (0xEC00, 0x41#8)]
    rom := [(0x0, 0x00#8), (0x5, 0x05#8), (0x27FE, 0xFE#8), (0x30FE, 0xFE#8), (0x3FFF, 0xFF#8)] }

/-- The same with both controllers idle. -/
def idle (w : Pins) : State := testState w [0, 0, 0] [0, 0, 0]

/-- The pins a Tick returns. -/
def pinsAfter (s : State) : Option Pins :=
  match tickWith stub s with
  | .next t => some t.pins
  | _ => none

/-- The enables and selects each device sees when the CPU presents `w`: CE of each, then A0's and A1's copy. -/
def selects (w : Pins) : List Bool :=
  let s := cpuPhase stub (idle w)
  [Bus.ce (pio1Input s), Bus.ce (pio2Word stub s), Bus.ce (ctcWord stub s), Bus.basel (pio1Input s), Bus.cdsel (pio1Input s),
    Bus.basel (pio2Word stub s), Bus.cdsel (pio2Word stub s), Bus.cs0 (ctcWord stub s), Bus.cs1 (ctcWord stub s)]

/-- The state a Tick leaves. -/
def after (s : State) : State :=
  match tickWith stub s with
  | .next t => t
  | _ => s

/-! ### Well-formed instructions: each unmapped row with a select that is a device's -/

theorem test_wellFormed_lo : (Instr.ioUnmappedLo 3#4 0#8 true false).wellFormed { referenceParams with ctcSel := 3#5 } = false := by
  decide

theorem test_wellFormed_hi : (Instr.ioUnmappedHi 2#3 0#8 true false).wellFormed { referenceParams with pio1Sel := 26#5 } = false := by
  decide

theorem test_wellFormed_a0 : (Instr.ioUnmappedA0 1#2 0#8 true false).wellFormed { referenceParams with pio2Sel := 21#5 } = false := by
  decide

theorem test_wellFormed_98 :
    (Instr.ioUnmapped98 0#2 0#8 true false).wellFormed referenceParams = false ∧
    (Instr.ioUnmapped98 1#2 0#8 true false).wellFormed referenceParams = false ∧
    (Instr.ioUnmapped98 2#2 0#8 true false).wellFormed referenceParams = false ∧
    (Instr.ioUnmapped98 3#2 0#8 true false).wellFormed referenceParams = true := by decide

theorem test_selects_distinct :
    ¬ ({ referenceParams with pio2Sel := referenceParams.pio1Sel } : Params).SelectsDistinct ∧ referenceParams.SelectsDistinct := by
  decide

/-! ### Decoding: one word a constructor, written from 30_encoding R150 and R162 to R166 -/

/-- MREQ is bit 25, RD bit 27, WR bit 28; the address is bits 15..0 and the data bits 23..16. -/
theorem test_decode_memory :
    decodeMem 0x0#64 = .memNone ∧ decodeMem 0xA001234#64 = .memRd 0x1234#16 ∧ decodeMem 0xB00F0FE#64 = .memRd 0xF0FE#16 ∧
    decodeMem 0x125A1000#64 = .memWr 0x1000#16 0x5A#8 ∧ decodeMem 0x402000042#64 = .memNoacc 0x42#16 ∧
    decodeMem 0x1A002000#64 = .memRdwr 0x2000#16 := by decide

/-- IORQ is bit 26; A7..A3 = 10000 with A1 A0 the channel; A2 is not decoded. -/
theorem test_decode_ctc :
    decodeIo testParams 0x14470080#64 = .ctcCh0 0x47#8 false true ∧ decodeIo testParams 0x0C000085#64 = .ctcCh1 0#8 true false ∧
    decodeIo testParams 0x0C000082#64 = .ctcCh2 0#8 true false ∧ decodeIo testParams 0x1C000087#64 = .ctcCh3 0#8 true true := by
  decide

/-- A7..A3 = 10001. -/
theorem test_decode_pio1 :
    decodeIo testParams 0x0C000088#64 = .pio1DataA 0#8 true false ∧ decodeIo testParams 0x1401008D#64 = .pio1DataB 1#8 false true ∧
    decodeIo testParams 0x14F0008A#64 = .pio1CtrlA 0xF0#8 false true ∧ decodeIo testParams 0x0400008F#64 = .pio1CtrlB 0#8 false false := by
  decide

/-- A7..A3 = 10010; the high address byte is not decoded. -/
theorem test_decode_pio2 :
    decodeIo testParams 0x0C001290#64 = .pio2DataA 0#8 true false ∧ decodeIo testParams 0x0C000091#64 = .pio2DataB 0#8 true false ∧
    decodeIo testParams 0x14E00092#64 = .pio2CtrlA 0xE0#8 false true ∧ decodeIo testParams 0x14830093#64 = .pio2CtrlB 0x83#8 false true := by
  decide

/-- The four unmapped rows, at the two ends of each, and IO_NONE. -/
theorem test_decode_unmapped :
    decodeIo testParams 0x0C000000#64 = .ioUnmappedLo 0#4 0#8 true false ∧
    decodeIo testParams 0x0C00007F#64 = .ioUnmappedLo 15#4 0#8 true false ∧
    decodeIo testParams 0x0C0000C0#64 = .ioUnmappedHi 0#3 0#8 true false ∧
    decodeIo testParams 0x0C0000FF#64 = .ioUnmappedHi 7#3 0#8 true false ∧
    decodeIo testParams 0x0C0000A0#64 = .ioUnmappedA0 0#2 0#8 true false ∧
    decodeIo testParams 0x0C0000BF#64 = .ioUnmappedA0 3#2 0#8 true false ∧
    decodeIo testParams 0x0C000098#64 = .ioUnmapped98 3#2 0#8 true false ∧
    decodeIo testParams 0x0C00009F#64 = .ioUnmapped98 3#2 0#8 true false ∧ decodeIo testParams 0x0A000088#64 = .ioNone := by decide

/-- M1 is bit 24 and RETI bit 38; an acknowledge matches an I/O row as well. -/
theorem test_decode_interrupt :
    decodeAck 0x5000088#64 = some (.inta 0x88#16) ∧ decodeAck 0x4000088#64 = none ∧
    decodeIo testParams 0x5000088#64 = .pio1DataA 0#8 false false ∧
    decodeSig 0x4000000000#64 = some .reti ∧ decodeSig 0x2000000000#64 = none := by decide

/-- The encoder on the same rows. -/
theorem test_encode :
    encode testParams (.memWr 0x1000#16 0x5A#8) = 0x125A1000#64 ∧ encode testParams (.pio2CtrlA 0xE0#8 false true) = 0x14E00092#64 ∧
    encode testParams (.ioUnmapped98 3#2 0#8 true false) = 0x0C000098#64 ∧ encode testParams (.inta 0x88#16) = 0x05000088#64 ∧
    encode testParams .reti = 0x4000000000#64 := by decide

/-! ### Memory cycles (95_test_vectors 3.1) -/

/-- M1, M6, M7. -/
theorem test_memRd :
    pinsAfter (idle 0xA001234#64) = some 0x200A3E1234#64 ∧ pinsAfter (idle 0xA00C005#64) = some 0x200A05C005#64 ∧
    pinsAfter (idle 0xA009000#64) = some 0x200AFF9000#64 := by decide +kernel

/-- M10 to M13 and M17: the window over the ROM, the ROM on both sides of it, an opcode fetch, the last address. -/
theorem test_memRd_layers :
    pinsAfter (idle 0xA00EC00#64) = some 0x200A41EC00#64 ∧ pinsAfter (idle 0xA00E7FE#64) = some 0x200AFEE7FE#64 ∧
    pinsAfter (idle 0xB00F0FE#64) = some 0x200BFEF0FE#64 ∧ pinsAfter (idle 0xA00FFFF#64) = some 0x200AFFFFFF#64 := by decide +kernel

/-- M2: the pins and the RAM byte. -/
theorem test_memWr :
    pinsAfter (idle 0x125A1000#64) = some 0x20125A1000#64 ∧
    ∃ t, exec (.memWr 0x1000#16 0x5A#8) { idle 0#64 with ram := [] } = .next t ∧ cellRead ramBg t.ram 0x1000 = 0x5A#8 :=
  ⟨by decide +kernel, _, rfl, cellRead_write_same ramBg [] rfl 0x1000 0x5A#8⟩

/-- M4, M8, M9: absorbed by the ROM, discarded where nothing is mapped, stored through the window. -/
theorem test_memWr_where :
    memWriteIndex (idle 0#64) 0xC000#16 = none ∧ memWriteIndex (idle 0#64) 0x9000#16 = none ∧
    memWriteIndex (idle 0#64) 0xEC00#16 = some 0xEC00 ∧ memWriteIndex (idle 0#64) 0x7FFF#16 = some 0x7FFF := by decide

/-- M14. -/
theorem test_memNoacc : pinsAfter (idle 0x402000042#64) = some 0x2402000042#64 := by decide +kernel

/-- M15, M20 to M23: HALT, a reserved bit and the CPU's own INT pass through; a device-local bit does not. -/
theorem test_memNone :
    pinsAfter (idle 0x0#64) = some 0x2000000000#64 ∧ pinsAfter (idle 0x20000000#64) = some 0x2020000000#64 ∧
    pinsAfter (idle 0x800000000#64) = some 0x2800000000#64 ∧ pinsAfter (idle 0x10000000000#64) = some 0x2000000000#64 ∧
    pinsAfter (idle 0x40000000#64) = some 0x2040000000#64 := by decide +kernel

/-- M16: both groups decode; the device's data replaces the memory byte. -/
theorem test_both_groups : pinsAfter (idle 0xE000088#64) = some 0x200E000088#64 := by decide +kernel

/-- M19: the fault, its word and its code. -/
theorem test_memRdwr :
    tickWith stub (idle 0x1A002000#64) = .fault (.busReadWriteBoth 0x1A002000#64) ∧
    tick (idle 0x1A002000#64) = .fault (.busReadWriteBoth 0x1A002000#64) ∧
    (Fault.busReadWriteBoth 0x1A002000#64).code = 6 := ⟨rfl, rfl, rfl⟩

/-! ### I/O port decode (95_test_vectors 3.2) -/

theorem test_ctcCh0 :
    selects 0xC000080#64 = [false, false, true, false, false, false, false, false, false] ∧
    selects 0xC000084#64 = [false, false, true, false, false, false, false, false, false] := by decide

theorem test_ctcCh1 : selects 0xC000081#64 = [false, false, true, true, false, true, false, true, false] := by decide

theorem test_ctcCh2 : selects 0xC000082#64 = [false, false, true, false, true, false, true, false, true] := by decide

theorem test_ctcCh3 :
    selects 0xC000083#64 = [false, false, true, true, true, true, true, true, true] ∧
    selects 0xC000087#64 = [false, false, true, true, true, true, true, true, true] := by decide

theorem test_pio1DataA :
    selects 0xC000088#64 = [true, false, false, false, false, false, false, false, false] ∧
    pinsAfter (idle 0xC55008C#64) = some 0x200C00008C#64 := by decide

theorem test_pio1DataB :
    selects 0xC000089#64 = [true, false, false, true, false, true, false, true, false] ∧
    pinsAfter (idle 0xC000089#64) = some 0x200C000089#64 := by decide

/-- P3 Tick 5: the control write arms a request, which nests over controller #2 under service. -/
theorem test_pio1CtrlA :
    selects 0xC00008A#64 = [true, false, false, false, true, false, true, false, true] ∧
    pinsAfter (testState 0x14F0008A#64 [0, 0, 0] [0, 1, 0xE0]) = some 0x54F0008A#64 := by decide

theorem test_pio1CtrlB :
    selects 0xC00008F#64 = [true, false, false, true, true, true, true, true, true] := by decide

/-- IO1, IO2. -/
theorem test_pio2DataA :
    selects 0xC000094#64 = [false, true, false, false, false, false, false, false, false] ∧
    pinsAfter (idle 0xC001290#64) = some 0x200CFB1290#64 := by decide

/-- IO3. -/
theorem test_pio2DataB :
    selects 0xC000091#64 = [false, true, false, true, false, true, false, true, false] ∧
    pinsAfter (idle 0xC000091#64) = some 0x200CEF0091#64 := by decide

/-- P3 Tick 1. -/
theorem test_pio2CtrlA :
    selects 0xC000092#64 = [false, true, false, false, true, false, true, false, true] ∧
    pinsAfter (idle 0x14E00092#64) = some 0x54E00092#64 := by decide

theorem test_pio2CtrlB : selects 0xC000097#64 = [false, true, false, true, true, true, true, true, true] := by decide

/-- IO4: the complemented ports become the keyboard's selection. -/
theorem test_ioNone :
    selects 0xA000088#64 = [false, false, false, false, false, false, false, false, false] ∧
    (after (idle 0#64)).kbd = ⟨[0x04, 0x10]⟩ := by decide

/-- IO6, with the two ends of the row; a write leaves the pins alone. -/
theorem test_ioUnmappedLo :
    (selects 0xC000000#64).take 3 = [false, false, false] ∧ (selects 0xC00007F#64).take 3 = [false, false, false] ∧
    pinsAfter (idle 0x14550020#64) = some 0x2014550020#64 := by decide

/-- A read that nobody answers draws a free byte and counts the draw. -/
theorem test_ioUnmapped_read :
    (after (idle 0xC550020#64)).draws = (idle 0#64).draws + 1 ∧
    Bus.data (after (idle 0xC550020#64)).pins = Config.freeByte (idle 0#64).draws := by
  refine ⟨by decide, ?_⟩
  have h : dataFloats stub (cpuPhase stub (idle 0xC550020#64)) = true := by decide
  have e : (after (idle 0xC550020#64)).pins = (ioPhase stub (cpuPhase stub (idle 0xC550020#64))).pins := rfl
  rw [e, ioPhase, if_pos h]
  exact Bus.data_setData _ _

/-- A decoded read whose device drives nothing, a channel of the counter/timer and a control register, draws a free byte as well; a write
and an answered read draw none (92_eei_decisions D40). -/
theorem test_undriven_read :
    (after (idle 0xC000080#64)).draws = (idle 0#64).draws + 1 ∧ (after (idle 0xC00008A#64)).draws = (idle 0#64).draws + 1 ∧
    (after (idle 0x14470080#64)).draws = (idle 0#64).draws ∧ (after (idle 0xC000090#64)).draws = (idle 0#64).draws := by decide

/-- An I/O controller that offers a byte in every cycle drives it only in a register read and in an acknowledge (00_scope R17): not
unselected, not on a write, not in a memory read. -/
theorem test_data_gate :
    let r : PioReply := { state := ⟨[]⟩, data := some 0xAA#8, int := false, ieo := true, ardy := false, brdy := false, pa := 0#8, pb := 0#8 }
    pioData r (withSelects 17#5 0x0C000088#64) = some 0xAA#8 ∧ pioData r 0x5000000#64 = some 0xAA#8 ∧
    pioData r (withSelects 17#5 0x0C000090#64) = none ∧ pioData r (withSelects 17#5 0x14000088#64) = none ∧
    pioData r 0x0A000088#64 = none := by decide

theorem test_ioUnmappedHi :
    (selects 0xC0000C0#64).take 3 = [false, false, false] ∧ (selects 0xC0000FF#64).take 3 = [false, false, false] := by decide

theorem test_ioUnmappedA0 :
    (selects 0xC0000A0#64).take 3 = [false, false, false] ∧ (selects 0xC0000BF#64).take 3 = [false, false, false] := by decide

theorem test_ioUnmapped98 :
    (selects 0xC000098#64).take 3 = [false, false, false] ∧ (selects 0xC00009F#64).take 3 = [false, false, false] := by decide

/-! ### The daisy chain (95_test_vectors 3.3 and programs P3, P5) -/

/-- The enables the three devices see and the returned enable and request, when the CPU presents nothing. -/
def chain (one two : List Nat) : List Bool :=
  let s := cpuPhase stub (testState 0#64 one two)
  [Bus.ieio (pio1Input s), Bus.ieio (pio2Word stub s), Bus.ieio (ctcWord stub s), Bus.ieio (ioPhase stub s).pins,
    Bus.int (ioPhase stub s).pins]

/-- The eight rows of the table. -/
theorem test_chain :
    chain [0, 0, 0] [0, 0, 0] = [true, true, true, true, false] ∧ chain [1, 0, 0] [0, 0, 0] = [true, false, false, false, true] ∧
    chain [0, 0, 0] [1, 0, 0] = [true, true, false, false, true] ∧ chain [1, 0, 0] [1, 0, 0] = [true, false, false, false, true] ∧
    chain [0, 1, 0] [0, 0, 0] = [true, false, false, false, false] ∧ chain [0, 1, 0] [1, 0, 0] = [true, false, false, false, true] ∧
    chain [0, 0, 0] [0, 1, 0] = [true, true, false, false, false] ∧
    chain [1, 0, 0] [0, 1, 0] = [true, false, false, false, true] := by decide

/-- P3 Ticks 3 and 6, P5 Tick 3: the device that answers, and who keeps requesting. -/
theorem test_inta :
    pinsAfter (testState 0x5000000#64 [0, 0, 0] [1, 0, 0xE0]) = some 0x5E00000#64 ∧
    pinsAfter (testState 0x5000000#64 [1, 0, 0xF0] [0, 1, 0xE0]) = some 0x5F00000#64 ∧
    pinsAfter (testState 0x5000000#64 [1, 0, 0xF0] [1, 0, 0xE0]) = some 0x45F00000#64 := by decide

/-- IO5: an acknowledge whose address falls in a device's range asserts its CE; nobody answers, so the data is a free byte. -/
theorem test_inta_unanswered :
    (selects 0x5000088#64).take 3 = [true, false, false] ∧ (after (idle 0x5000088#64)).draws = (idle 0#64).draws + 1 := by
  decide

/-- P3 Ticks 7 and 8, P5 Tick 5. -/
theorem test_reti :
    pinsAfter (testState 0x4000000000#64 [0, 1, 0xF0] [0, 1, 0xE0]) = some 0x4000000000#64 ∧
    (after (testState 0x4000000000#64 [0, 1, 0xF0] [0, 1, 0xE0])).pio2 = ⟨[0, 1, 0xE0]⟩ ∧
    (after (testState 0x4000000000#64 [0, 0, 0xF0] [0, 1, 0xE0])).pio2 = ⟨[0, 0, 0xE0]⟩ ∧
    pinsAfter (testState 0x4000000000#64 [0, 1, 0xF0] [1, 0, 0xE0]) = some 0x4040000000#64 := by decide +kernel

/-! ### Cascade, audio, blink (95_test_vectors 3.4, 3.5) -/

/-- The counter/timer about to give the terminal counts `z`, with the latch `c` and the generator's bit `b`. -/
def ctcState (z : Nat) (c : Bool) (b : Nat) : State := { idle 0#64 with ctc := ⟨[z]⟩, ctcCascade := c, beeper := ⟨[b]⟩ }

/-- Rows 1 to 4 of the cascade table. -/
theorem test_cascade :
    (after (ctcState 1 false 0)).ctcCascade = false ∧ (after (ctcState 4 false 1)).ctcCascade = true ∧
    Bus.clktrg 3 (ctcWord stub (cpuPhase stub (ctcState 0 true 1))) = true ∧
    Bus.clktrg 2 (ctcWord stub (cpuPhase stub (ctcState 0 true 1))) = false ∧ (after (ctcState 0 true 1)).ctcCascade = false ∧
    (after (ctcState 5 false 1)).ctcCascade = true := by decide +kernel

/-- The toggle and the write position. -/
theorem test_audio :
    (after (ctcState 1 false 0)).beeper = ⟨[1]⟩ ∧ (after (ctcState 4 false 1)).beeper = ⟨[1]⟩ ∧
    (after (ctcState 5 false 1)).beeper = ⟨[0]⟩ ∧ (after (ctcState 1 false 0)).audioPos = 1 ∧
    (after { ctcState 5 false 1 with audioPos := 3 }).audioPos = 0 := by decide +kernel

/-- With a count of 1 every sample is delivered. -/
theorem test_audio_event : (audioStep stub { ctcState 0 false 1 with audioN := 1 }).events = [.audioBuffer [⟨1⟩]] := by
  have h : cellRead (Config.audioUndef 0) (cellWrite (Config.audioUndef 0) [] 0 (⟨1⟩ : Sample)) 0 = ⟨1⟩ :=
    cellRead_write_same (Config.audioUndef 0) [] rfl 0 ⟨1⟩
  have e : (audioStep stub { ctcState 0 false 1 with audioN := 1 }).events =
      [.audioBuffer [cellRead (Config.audioUndef 0) (cellWrite (Config.audioUndef 0) [] 0 (⟨1⟩ : Sample)) 0]] := rfl
  rw [e, h]

theorem test_blink :
    (blinkStep (idle 0#64)).blinkCounter = 98304#32 ∧ (blinkStep (idle 0#64)).blinkFF = 0x80#8 ∧
    (blinkStep { idle 0#64 with blinkCounter := 98304#32, blinkFF := 0x80#8 }).blinkCounter = 98303#32 ∧
    (blinkStep { idle 0#64 with blinkCounter := 0#32, blinkFF := 0xFF#8 }).blinkFF = 0x7F#8 := by decide

/-! ### Video cells (95_test_vectors 3.6, V1 to V9) -/

/-- The eight pixels of a pattern under an attribute byte. -/
def pixels (on : Bool) (at8 px8 : Byte) : List Byte := (List.range 8).map (expandPixel px8 (attrColours on at8))

theorem test_video_cells :
    pixels true 0x21#8 0x18#8 = [1, 1, 1, 2, 2, 1, 1, 1] ∧ pixels true 0xA3#8 0x81#8 = [3, 2, 2, 2, 2, 2, 2, 3] ∧
    pixels false 0xA3#8 0x81#8 = [2, 3, 3, 3, 3, 3, 3, 2] ∧ pixels true 0x2B#8 0x81#8 = [2, 3, 3, 3, 3, 3, 3, 2] ∧
    pixels true 0x80#8 0x81#8 = [0, 0, 0, 0, 0, 0, 0, 0] ∧ pixels true 0x75#8 0x00#8 = [5, 5, 5, 5, 5, 5, 5, 5] ∧
    pixels (blinkBit 0x7F#8) 0x7F#8 0x18#8 = [7, 7, 7, 7, 7, 7, 7, 7] ∧
    (List.range 8).map (expandPixel 0x18#8 (7#3, 0#3)) = [0, 0, 0, 7, 7, 0, 0, 0] := by decide

/-- The address vectors. -/
theorem test_video_addresses :
    0xEC00 + 40 * 2 + 5 = 0xEC55 ∧ pixelIndex 2 3 5 0 = 9768 ∧ pixelIndex 2 3 5 7 = 9775 ∧ pixelIndex 23 7 39 7 = 98111 := by decide

/-! ### Execute, Init, scripts (95_test_vectors 3.7, 3.8; 30_encoding R171, R172) -/

/-- X1, X2, X5 to X8. -/
theorem test_execute_counts :
    cyclesOf (idle 0#64) 1000 = 2457 ∧ cycleTotal (idle 0#64) 1000 % 1000000 = 600000 ∧
    cyclesOf { idle 0#64 with clkRem := 600000 } 1 = 3 ∧ cycleTotal { idle 0#64 with clkRem := 600000 } 1 % 1000000 = 57600 ∧
    cyclesOf (idle 0#64) 1000000 = 2457600 ∧ cyclesOf (idle 0#64) 2 = 4 ∧ cyclesOf (idle 0#64) 3 = 7 ∧
    cyclesOf (idle 0#64) 4 = 9 := by decide

/-- The configuration of the test configuration, with the given changes. -/
def testConfig (P : Params) (rom font audio : Nat) : InitConfig :=
  { variant := .color, params := P, cpu := .chip, romImages := [some (List.replicate rom 0#8)], font := some (List.replicate font 0#8)
    initRam := [0x6D#8, 0x98#8], hook := none, audioCallback := 0, audioRate := 0, audioCount := audio, audioVolume := 0 }

/-- I3, I4, I5, I6, I7, I1, with a ROM image of 16 bytes for the map's. -/
theorem test_config_checks :
    failedCheck { testParams with pio2Sel := testParams.pio1Sel } .color 4 = some .selects ∧
    failedCheck { testParams with cascadeSrc := 3 } .color 4 = some .cascade ∧
    failedCheck { testParams with mapColor := testMap.map fun b => { b with readOnly := false } } .color 4 = some .romWritable ∧
    failedCheck { testParams with mapColor := { layer := 0, base := 0x7000, size := 0x2000, store := .ram, offset := 0x7000, readOnly := false } :: testMap }
      .color 4 = some .layerOverlap ∧
    failedCheck testParams .color 4 = none := by decide

/-- I2, I3, I8, I9: which check comes first. -/
theorem test_init_order :
    initFault (testConfig { testParams with romImagesColor := [16], pio2Sel := testParams.pio1Sel } 15 2048 2000)
      = some (.romSizeMismatch (.rom 0) 16 15) ∧
    initFault (testConfig { testParams with romImagesColor := [16], pio2Sel := testParams.pio1Sel } 16 2048 2000)
      = some (.audioBufferOversize 2000) ∧
    initFault (testConfig { testParams with romImagesColor := [16] } 16 2047 2000) = some (.romSizeMismatch .font 2048 2047) ∧
    initOp (some (idle 0#64)) none = .fault (.nullArgument .init) := ⟨by decide +kernel, by decide +kernel, by decide +kernel, rfl⟩

/-- The forms of a line, a pseudo-line that wraps, and a signal added to a line. -/
theorem test_script :
    scriptOf [.mrd 0x1234#16, .mfetch 0xF0FE#16, .mwr 0x4000#16 0x5A#8, .refresh 0x42#16, .iord 0x90#8 0x12#8, .iowr 0x8A#8 0#8 0xF0#8,
      .inta 0x88#16, .reti, .plus .idle .halt, .plus (.mrd 0x2000#16) .wr]
      = [0x0A001234#64, 0x0B00F0FE#64, 0x125A4000#64, 0x402000042#64, 0x0C001290#64, 0x14F0008A#64, 0x05000088#64, 0x4000000000#64,
        0x20000000#64, 0x1A002000#64] ∧
    scriptOf [.idles 2, .fill 0xFFFF#16 2 0x11#8, .mrds 0x10#16 2]
      = [0#64, 0#64, 0x1211FFFF#64, 0x12110000#64, 0x0A000010#64, 0x0A000011#64] := by decide

/-- S5 and 60_exceptions R421: the saved rate comes back, the live callback stays, and so does the instance's mode. -/
theorem test_snapshot :
    let saved : State := { idle 0#64 with valid := false, clkRem := 7, audioCfg := { callback := 1, sampleRate := 44100, volume := 3 } }
    let live : State := { idle 0#64 with audioCfg := { callback := 9, sampleRate := 8000, volume := 1 } }
    (restoredState live saved).audioCfg = { callback := 9, sampleRate := 44100, volume := 3 } ∧
    (restoredState live saved).valid = true ∧ (restoredState live saved).clkRem = 7 := by decide

theorem test_reset_memories : memoriesWf State.reset = true := rfl

/-- The step runs a placed word as the first one after reset: the fault of a read and write, a memory read, and a memory
write's byte. -/
theorem test_step_placed_word :
    step (State.reset.withFetchWord 32 0x1A002000) = .fault (.busReadWriteBoth 0x1A002000#64) ∧
    (∃ t, step (State.reset.withFetchWord 32 0x0A000000) = .next t) ∧
    ∃ t, step (State.reset.withFetchWord 32 0x125A1000) = .next t ∧ cellRead ramBg t.ram 0x1000 = 0x5A#8 :=
  ⟨rfl, ⟨_, rfl⟩, _, rfl, cellRead_write_same ramBg [] rfl 0x1000 0x5A#8⟩

/-! ### Witnesses: a state and operands that meet the hypotheses of each statement that has some -/

/-- The state after reset with a scripted CPU that idles: it runs. -/
def running : State := withLine State.reset 0#64

/-- The same in the monochrome variant, whose map leaves 0xC000 to 0xEBFF unmapped. -/
def monoRunning : State := { running with variant := .mono, map := referenceParams.mapMono }

theorem witness_DecodeOfPresentedRowIsTheRow :
    referenceParams.SelectsDistinct ∧ (Instr.ioUnmapped98 3#2 0#8 true false).wellFormed referenceParams = true ∧
    (Instr.ioUnmappedLo 15#4 0xFF#8 true true).wellFormed referenceParams = true ∧
    (Instr.memRdwr 0xFFFF#16).wellFormed referenceParams = true := by decide

theorem witness_DecodeOfEncodeIsTheRow :
    referenceParams.SelectsDistinct ∧ (Instr.ioUnmappedHi 0#3 0#8 false true).wellFormed referenceParams = true ∧
    (Instr.ioUnmappedA0 3#2 0#8 false true).wellFormed referenceParams = true ∧
    (Instr.ctcCh3 0#8 true false).wellFormed referenceParams = true := by decide

/-- A word with M1, IORQ and RETI has an acknowledge row and a RETI row; an encoded row sets its own signals. -/
theorem witness_DecodedRowsStandOnTheirWord :
    decodeAck 0x4005000088#64 = some (.inta 0x88#16) ∧ decodeSig 0x4005000088#64 = some .reti ∧
    Bus.bit 38 (encode referenceParams .reti) = true := by decide

theorem witness_DecodeAgreesWithTheTable :
    MatchesRow 0x0C000098#64 (.ioUnmapped98 3#2 0#8 true false) ∧ MatchesRow 0x1A000000#64 (.memRdwr 0#16) ∧
    decodeAck 0x5000088#64 = some (.inta 0x88#16) ∧ decodeSig 0x4000000000#64 = some .reti := by decide

theorem witness_MatchingPeripheralRowsAgree :
    let s : State := { running with pins := 0x4005000088#64 }
    decodeIo s.params s.pins = .pio1DataA 0#8 false false ∧ decodeAck s.pins = some (.inta 0x88#16) ∧ decodeSig s.pins = some .reti := by
  decide

theorem witness_NoAccessRowsChangeNothing :
    Bus.mreq (0x18000000#64) = false ∧ Bus.mreq (0x402000042#64) = true ∧ Bus.rd (0x402000042#64) = false ∧
    Bus.wr (0x402000042#64) = false := by decide

/-- A binding serves its first and its last address, the window lies over what is under it, and both ends of the gap are unmapped. -/
theorem witness_MemReadServesTheTopBinding :
    mapWf monoRunning.params monoRunning.variant monoRunning.map = true ∧
    (∀ x ∈ [(refRam, 0), (refRam, 0xBFFF), (refCharWindow, 0xEC00), (refCharWindow, 0xEFFF), (refRomMono, 0xF000), (refRomMono, 0xFFFF)],
      x.1 ∈ monoRunning.map ∧ Binding.coversAddr x.1 x.2 = true ∧
      ∀ c ∈ monoRunning.map, Binding.coversAddr c x.2 = true → c.layer ≤ x.1.layer) ∧
    ∀ a ∈ [0xC000, 0xEBFF], ∀ b ∈ monoRunning.map, Binding.coversAddr b a = false := by decide

theorem witness_MemWrStoresOneRamByte :
    cellsWf ramBg monoRunning.ram = true ∧ mapWf monoRunning.params monoRunning.variant monoRunning.map = true ∧
    ∀ x ∈ [(refRam, 0), (refRam, 0xBFFF), (refCharWindow, 0xEC00), (refCharWindow, 0xEFFF)],
      x.1 ∈ monoRunning.map ∧ Binding.coversAddr x.1 x.2 = true ∧ x.1.readOnly = false ∧
      ∀ c ∈ monoRunning.map, Binding.coversAddr c x.2 = true → c.layer ≤ x.1.layer := ⟨rfl, by decide, by decide⟩

theorem witness_AbsorbedWritesChangeNothing :
    mapWf monoRunning.params monoRunning.variant monoRunning.map = true ∧
    (∀ a ∈ [0xF000, 0xFFFF], refRomMono ∈ monoRunning.map ∧ Binding.coversAddr refRomMono a = true ∧ refRomMono.readOnly = true ∧
      ∀ c ∈ monoRunning.map, Binding.coversAddr c a = true → c.layer ≤ refRomMono.layer) ∧
    ∀ a ∈ [0xC000, 0xEBFF], ∀ b ∈ monoRunning.map, Binding.coversAddr b a = false := by decide

theorem witness_ReadAfterWriteThroughTheMap :
    cellsWf ramBg running.ram = true ∧ mapWf running.params running.variant running.map = true := ⟨rfl, by decide⟩

theorem witness_ReadAndWriteTogetherFaults :
    let s : State := { withLine State.reset 0x1A000000#64 with pins := 0x1A00FFFF#64 }
    (Bus.mreq s.pins = true ∧ Bus.rd s.pins = true ∧ Bus.wr s.pins = true) ∧
    Bus.mreq (nextWord s) = true ∧ Bus.rd (nextWord s) = true ∧ Bus.wr (nextWord s) = true := by decide

theorem witness_CtcRowsSelectTheirChannel : running.params.SelectsDistinct ∧ Bus.Canonical running.pins := by decide

theorem witness_Pio1RowsSelectTheirRegister : running.params.SelectsDistinct ∧ Bus.Canonical running.pins := by decide

theorem witness_Pio2RowsSelectTheirRegister : running.params.SelectsDistinct ∧ Bus.Canonical running.pins := by decide

theorem witness_IoNoneTicksEveryDeviceUnselected : Bus.Canonical running.pins := by decide

/-- The ends of each row, a read and a write, and no acknowledge. -/
theorem witness_UnmappedPortsSelectNobody :
    Bus.Canonical running.pins ∧ Bus.m1 running.pins = false ∧
    ∀ i ∈ [Instr.ioUnmappedLo 0#4 0#8 true false, .ioUnmappedLo 15#4 0#8 false true, .ioUnmappedHi 0#3 0#8 true false,
        .ioUnmappedHi 7#3 0#8 false true, .ioUnmappedA0 0#2 0#8 true false, .ioUnmappedA0 3#2 0#8 false true,
        .ioUnmapped98 3#2 0#8 true false, .ioUnmapped98 3#2 0#8 false true], i.wellFormed running.params = true := by decide

theorem witness_PeripheralRowsFrame :
    isMemoryRow .reti = false ∧ isMemoryRow (.ctcCh0 0#8 true false) = false ∧ ∃ t, exec .reti running = .next t :=
  ⟨rfl, rfl, _, rfl⟩

theorem witness_EnableOutputNeedsEnableInput :
    Bus.ieio (pioTick stub ⟨[0, 0, 0]⟩ 0x2000000000#64).2 = true ∧ Bus.ieio (ctcTick stub ⟨[]⟩ 0x2000000000#64).2 = true := by decide

theorem witness_PeripheralTicksPassTheBusThrough :
    (∃ st, (pioTick stub ⟨[1, 0, 7]⟩ 0x5000088#64).2 = (pioTick stub st 0x5000088#64).2) ∧
    (∃ st, (ctcTick stub ⟨[5]⟩ 0x5000088#64).2 = (ctcTick stub st 0x5000088#64).2) ∧
    registerRead 0x0C000088#64 = false ∧ Bus.isInta 0x0C000088#64 = false ∧
    registerRead 0x10014000088#64 = false ∧ Bus.isInta 0x10014000088#64 = false :=
  ⟨⟨_, rfl⟩, ⟨_, rfl⟩, by decide, by decide, by decide, by decide⟩

theorem witness_BusyDeviceBlocksTheLaterOnes :
    Bus.ieio (pioTick stub (testState 0#64 [1, 0, 0] [0, 0, 0]).pio1 (pio1Input (testState 0#64 [1, 0, 0] [0, 0, 0]))).2 = false ∧
    Bus.ieio (pioTick stub (testState 0#64 [0, 0, 0] [0, 1, 0]).pio2 (pio2Word stub (testState 0#64 [0, 0, 0] [0, 1, 0]))).2 = false := by
  decide

/-- The controller of the test configuration drives data in an acknowledge only with its enable input 1, and then holds its enable
output 0. -/
theorem stub_ackContract : AckContract stub where
  pio st p hi hd := by
    obtain ⟨h1, h2⟩ : Bus.m1 p = true ∧ Bus.iorq p = true := by simpa [Bus.isInta] using hi
    simp only [stub, reqTick, hi, h1, h2] at hd ⊢
    generalize (st.code.getD 0 0 == 1) = req at hd ⊢
    generalize (st.code.getD 1 0 == 1) = ius at hd ⊢
    generalize Bus.ieio p = e at hd ⊢
    revert hd
    cases e <;> cases req <;> cases ius <;> simp
  ctc st p hi hd := by simp [stub, zctoTick] at hd

theorem witness_AtMostOneDeviceAnswersAnAcknowledge :
    let s := { testState 0#64 [1, 0, 0xF0] [1, 0, 0xE0] with pins := 0x5000000#64 }
    let t := { testState 0#64 [0, 0, 0xF0] [1, 0, 0xE0] with pins := 0x5000000#64 }
    AckContract stub ∧ Bus.isInta s.pins = true ∧ (pioData (stub.pioTick s.pio1 (pio1Input s)) (pio1Input s)).isSome = true ∧
    (pioData (stub.pioTick t.pio2 (pio2Word stub t)) (pio2Word stub t)).isSome = true :=
  ⟨stub_ackContract, by decide, by decide, by decide⟩

/-- Each device's condition at a word that meets it. -/
theorem witness_ChipSelectIsExactAndExclusive :
    let s := { idle 0#64 with pins := 0x0C000088#64 }
    Bus.Canonical s.pins ∧ s.params.SelectsDistinct ∧ Bus.ce (pio1Input s) = true ∧
    Bus.ce (pio2Word stub { idle 0#64 with pins := 0x0C000090#64 }) = true ∧
    Bus.ce (ctcWord stub { idle 0#64 with pins := 0x0C000087#64 }) = true := by decide

theorem witness_Pio1PortInputsAreZero : Bus.Canonical (0xFFFFFFFFFF#64) := by decide

theorem witness_CascadeLatchDelaysOneTick :
    cascadeOk referenceParams = true ∧ cascadeOk { referenceParams with cascadeSrc := 0, cascadeDst := 1 } = true := by decide

theorem witness_TerminalCountTogglesTheAudioGenerator : ({ referenceParams with audioCh := 2 } : Params).audioCh ≤ 2 := by decide

/-- No sample, a sample that fits, a sample that fills. -/
theorem witness_AudioSamplesAreAppendedAndDelivered :
    cellsWf (Config.audioUndef running.audioFill) running.audioBuf = true ∧
    (({ stub with beeperTick := fun b => (b, none) } : Collaborators).beeperTick running.beeper).2 = none ∧
    (stub.beeperTick ⟨[1]⟩).2 = some ⟨1⟩ ∧ running.audioPos + 1 ≠ running.audioN ∧
    ({ running with audioPos := 127 } : State).audioPos + 1 = running.audioN := ⟨rfl, rfl, rfl, by decide, by decide⟩

theorem witness_BlinkDividerReloadsAndFlips :
    running.blinkCounter = 0#32 ∧ ({ running with blinkCounter := 1#32 } : State).blinkCounter ≠ 0#32 := by decide

theorem witness_BlinkFlipsEveryReloadPlusOneSteps :
    running.blinkCounter = 0#32 ∧ running.params.clkHz / 25 < 2 ^ 32 ∧ 98304 ≤ running.params.clkHz / 25 := by decide

theorem witness_StepRunsTheDecodedRows :
    running.valid = true ∧
    (∃ s2 s3, exec (decodeMem (nextWord running)) (cpuPhase running.params.chips running) = .next s2 ∧
      exec (decodeBus s2.params s2.pins) s2 = .next s3) ∧
    ∃ r, exec (decodeMem (nextWord (withLine State.reset 0x1A000000#64)))
      (cpuPhase State.reset.params.chips (withLine State.reset 0x1A000000#64)) = .fault r :=
  ⟨rfl, ⟨_, _, rfl, rfl⟩, _, rfl⟩

theorem witness_StepCompletesOrFaultsByName :
    Runs running ∧ ((withLine State.reset 0x1A00FFFF#64).valid = true ∧ cpuWordLegal (nextWord (withLine State.reset 0x1A00FFFF#64)) = false) ∧
    ({ running with valid := false } : State).valid = false := ⟨⟨rfl, rfl⟩, ⟨rfl, rfl⟩, rfl⟩

theorem witness_NoBusCycleReachesTheConfiguration : ∃ t, tick running = .next t := ⟨_, rfl⟩

/-- A cycle that writes no memory, and a write cycle with a byte it does not store to. -/
theorem witness_TickWritesAtMostOneByte :
    (∃ t, tick running = .next t) ∧ (Bus.mreq (nextWord running) && Bus.wr (nextWord running)) = false ∧
    (∃ t, tick (withLine State.reset 0x125A1000#64) = .next t) ∧
    memWriteIndex running (Bus.addr (nextWord (withLine State.reset 0x125A1000#64))) ≠ some 0x1001 :=
  ⟨⟨_, rfl⟩, rfl, ⟨_, rfl⟩, by decide⟩

/-- The invariant of the running state. -/
theorem running_inv : Inv running where
  valid := rfl
  config := by decide
  map := rfl
  cellsForm := rfl
  cellsSize := rfl
  pins := by decide
  audioPos := by decide
  clkRem := by decide
  blinkCounter := by decide
  blinkFF := by decide

theorem witness_StepKeepsTheInvariant : Inv running ∧ ∃ t, step running = .next t := ⟨running_inv, _, rfl⟩

theorem witness_DebugHookIsCalledOncePerCycle :
    (∃ t, tick { running with hook := some ⟨1, false⟩ } = .next t ∧ t.hook = some ⟨1, false⟩) ∧
    ∃ t, tick running = .next t ∧ t.hook = none := ⟨⟨_, rfl, rfl⟩, _, rfl, rfl⟩

/-- A line to present, and a script past its last line. -/
theorem witness_ScriptedCpuPresentsItsLines :
    running.cpu = .scripted { lines := [0#64], pos := 0, entry := 0xF000#16, seen := [] } ∧
    ∃ sc : Script, ({ running with cpu := .scripted ⟨[0x0A001234#64], 1, 0#16, []⟩ } : State).cpu = .scripted sc ∧
      sc.lines.length ≤ sc.pos := ⟨rfl, _, rfl, by decide⟩

theorem witness_VideoDecodePaintsEveryVisiblePixel : cellsWf fbBg running.fb = true := rfl

/-- Two states that differ in what the decode does not read. -/
theorem witness_VideoDecodeIsIdempotentAndDetermined :
    let t : State := { running with clkRem := 5, blinkFF := 0x7F#8, ram := [], fb := [(0, 1#8)] }
    cellsWf fbBg running.fb = true ∧ cellsWf fbBg t.fb = true ∧ running.variant = t.variant ∧ running.params = t.params ∧
    blinkBit running.blinkFF = blinkBit t.blinkFF ∧ running.font = t.font ∧
    (∀ n, n < 960 → cellRead ramBg running.ram (running.params.vramBase + n) = cellRead ramBg t.ram (t.params.vramBase + n)) ∧
    ∀ n, n < 960 → cellRead ramBg running.ram (running.params.aramBase + n) = cellRead ramBg t.ram (t.params.aramBase + n) :=
  ⟨rfl, by decide, rfl, rfl, by decide, rfl, fun _ _ => rfl, fun _ _ => rfl⟩

/-- Two cycles. -/
theorem witness_ExecuteRunsExactlyItsCycles :
    running.hook = none ∧ ∃ r, execute (fun _ => false) (some running) 1 = .next r := ⟨rfl, _, rfl⟩

theorem witness_NoCycleIsDroppedAcrossCalls :
    running.hook = none ∧ [1, 1] ≠ ([] : List Nat) ∧ ∃ r, executeMany (fun _ => false) [1, 1] running = .next r :=
  ⟨rfl, by decide, _, rfl⟩

theorem witness_StoppedExecuteRunsNoTick :
    let s : State := { running with hook := some ⟨1, true⟩ }
    s.valid = true ∧ hookStopped s = true := ⟨rfl, rfl⟩

theorem witness_ExecuteKeepsTheInvariant : Inv running ∧ ∃ r, execute (fun _ => true) (some running) 1 = .next r :=
  ⟨running_inv, _, rfl⟩

theorem witness_HostOperationsCheckTheInstance : ({ running with valid := false } : State).valid = false := rfl

/-- A configuration whose map needs no ROM, with `rom` bytes in its one image and `font` bytes of font. -/
def smallConfig (rom font audio sel : Nat) : InitConfig :=
  testConfig { referenceParams with romImagesColor := [1], mapColor := [refRam], ctcSel := BitVec.ofNat 5 sel } rom font audio

/-- A missing image, a ROM and a font of a wrong size, a count past the capacity, equal selects, and all checks passed at the
capacity. -/
theorem witness_InitChecksInOrder :
    (({ smallConfig 1 2048 0 16 with font := none } : InitConfig).font = none ∧
      none ∈ ({ smallConfig 1 2048 0 16 with romImages := [none] } : InitConfig).romImages) ∧
    [List.replicate 2 0#8].map List.length ≠ romImages (smallConfig 2 2048 0 16).params .color ∧ (List.replicate 2047 0#8).length ≠ 2048 ∧
    ([List.replicate 1 0#8].map List.length = romImages (smallConfig 1 2048 0 16).params .color ∧ (List.replicate 2048 0#8).length = 2048) ∧
    (smallConfig 1 2048 1025 16).params.maxAudioSamples < (smallConfig 1 2048 1025 16).audioCount ∧
    configWf (smallConfig 1 2048 1024 17).params .color 1024 = false ∧
    (smallConfig 1 2048 1024 16).audioCount ≤ (smallConfig 1 2048 1024 16).params.maxAudioSamples ∧
    configWf (smallConfig 1 2048 1024 16).params .color (audioCountOf (smallConfig 1 2048 1024 16).params 1024) = true := by
  refine ⟨⟨rfl, by decide⟩, by decide, by decide +kernel, ⟨by decide, by decide +kernel⟩, by decide, by decide, by decide, by decide⟩

theorem smallConfig_passes : initFault (smallConfig 1 2048 1024 16) = none := by decide +kernel

/-- An Init that completes, the last bytes of its images and of its RAM fill, and the first index past the fill. -/
theorem witness_InitWritesEveryField :
    (∃ t, initOp (some running) (some (smallConfig 1 2048 1024 16)) = .next t) ∧
    (smallConfig 1 2048 1024 16).font = some (List.replicate 2048 0#8) ∧ (List.replicate 2048 0#8)[2047]? = some 0#8 ∧
    (smallConfig 1 2048 1024 16).romImages = [List.replicate 1 0#8].map some ∧ [List.replicate 1 0#8].flatten[0]? = some 0#8 ∧
    1 < (smallConfig 1 2048 1024 16).params.ramSize ∧ (smallConfig 1 2048 1024 16).initRam[1]? = some 0x98#8 ∧
    (smallConfig 1 2048 1024 16).initRam.length ≤ 2 :=
  ⟨⟨_, by rw [initOp, smallConfig_passes]⟩, rfl, by decide +kernel, rfl, by decide, by decide, rfl, by decide⟩

/-- Two configurations fill RAM with different bytes, and a fill past the block's size is cut (70_reset_and_hazards R453). -/
theorem test_init_ram :
    cellRead ramBg (initState running (smallConfig 1 2048 0 16)).ram 1 = 0x98#8 ∧
    cellRead ramBg (initState running { smallConfig 1 2048 0 16 with initRam := [1#8, 2#8] }).ram 1 = 2#8 ∧
    ramFill (testConfig { referenceParams with ramSize := 1 } 1 2048 0) = [0x6D#8] := by
  refine ⟨?_, ?_, rfl⟩ <;> simp only [initState, cellRead_of] <;> rfl

/-- Each call gives its own configuration's palette (43_execution_driver R361). -/
theorem test_palette :
    (displayMetadata { referenceParams with palette := Vector.replicate 8 ⟨3⟩ } none).palette = List.replicate 8 ⟨3⟩ ∧
    displayInfo { referenceParams with palette := Vector.replicate 8 ⟨3⟩ } (some running) =
      .next (displayMetadata running.params (some running.fb)) := ⟨rfl, rfl⟩

theorem witness_ReferenceInitGivesTheResetState : ({ running with draws := 0 } : State).draws = 0 := rfl

theorem witness_ResetReinitialisesCpuAndChips : running.valid = true := rfl

theorem witness_ResetRestoresTheEntryAddress :
    ∃ t u, Host.Core.run Sys2Proof.core 1 running = .next t ∧ resetOp (some t) = .next u := ⟨_, _, rfl, rfl⟩

theorem witness_DiscardMakesTheInstanceInvalid : running.valid = true ∧ initFault (smallConfig 1 2048 1024 16) = none :=
  ⟨rfl, smallConfig_passes⟩

theorem witness_DisplayInfoGivesTheGeometry : running.valid = true := rfl

/-- 60_exceptions R401, R402: a null image faults, a rejected snapshot does not, and the instance is checked before the argument. -/
theorem test_null_and_rejected :
    quickload (some running) none = .fault (.nullArgument .quickload) ∧
    loadSnapshot (some running) (some .rejected) = .next (running, false) ∧
    loadSnapshot (some { running with valid := false }) none = .fault (.invalidInstance .loadSnapshot) := ⟨rfl, rfl, rfl⟩

theorem witness_HostEventsAndLoadsChangeWhatTheyName :
    running.valid = true ∧ ({ writes := [], entry := none } : LoadImage).entry = none ∧
    ({ writes := [(0x200#16, 1#8)], entry := some 0x200#16 } : LoadImage).entry = some 0x200#16 := ⟨rfl, rfl, rfl⟩

end Sys2Proof.Tests
end

section
/-! The bus contracts of a peripheral's tick (00_scope R17, R19, R21) and the invariant of the reset state. -/

namespace Sys2Proof.Machine

/-! ### The enable chain and the pass-through -/

/-- The enable output of an I/O controller is gated by its enable input, whatever the controller answers. -/
theorem ieio_pioTick (C : Collaborators) (st : PioState) (p : Pins) :
    Bus.ieio (pioTick C st p).2 = (Bus.ieio p && (C.pioTick st p).ieo) :=
  ieio_pioDrive (C.pioTick st p) p

/-- The enable output of the counter/timer is gated by its enable input, whatever the counter/timer answers. -/
theorem ieio_ctcTick (C : Collaborators) (st : CtcState) (p : Pins) :
    Bus.ieio (ctcTick C st p).2 = (Bus.ieio p && (C.ctcTick st p).ieo) :=
  ieio_ctcDrive (C.ctcTick st p) p

/-- Settles O22: each enable output is the enable input AND the device's own. -/
theorem enableOutputNeedsEnableInput : Obligations.EnableOutputNeedsEnableInput := by
  intro C
  constructor
  · intro st p h
    rw [ieio_pioTick, Bool.and_eq_true] at h
    exact h.1
  · intro st p h
    rw [ieio_ctcTick, Bool.and_eq_true] at h
    exact h.1

/-- A word with the address and the control bits of another (bits 24 to 39 but INT and IEIO) has the signals R21 names from it. -/
theorem passThrough_of_bits {p q : Pins} (ha : Bus.addr q = Bus.addr p)
    (hb : ∀ n, 24 ≤ n → n < 40 → n ≠ 30 → n ≠ 37 → Bus.bit n q = Bus.bit n p) :
    Bus.addr q = Bus.addr p ∧ Bus.m1 q = Bus.m1 p ∧ Bus.mreq q = Bus.mreq p ∧ Bus.iorq q = Bus.iorq p ∧
      Bus.rd q = Bus.rd p ∧ Bus.wr q = Bus.wr p ∧ Bus.reti q = Bus.reti p := by
  refine ⟨ha, ?_⟩
  simp [Bus.m1, Bus.mreq, Bus.iorq, Bus.rd, Bus.wr, Bus.reti, hb]

/-- Outside a register read and an acknowledge an I/O controller leaves the data field (R17). -/
theorem data_pioTick_of_not_driving (C : Collaborators) (st : PioState) (p : Pins) (hr : registerRead p = false)
    (hi : Bus.isInta p = false) : Bus.data (pioTick C st p).2 = Bus.data p := by
  rw [pioTick, data_pioDrive, pioData_none _ _ hr hi, Option.getD_none]

/-- Settles O23: a tick writes D, INT, IEIO and device-local bits alone, and D only when the controller may drive it. -/
theorem peripheralTicksPassTheBusThrough : Obligations.PeripheralTicksPassTheBusThrough := by
  intro C p
  constructor
  · rintro q (⟨st, rfl⟩ | ⟨st, rfl⟩)
    · exact passThrough_of_bits (addr_pioDrive _ p) fun n hlo hhi hint hieio => bit_pioDrive_out n _ p hhi (.inr hlo) hint hieio
    · exact passThrough_of_bits (addr_ctcDrive _ p) fun n hlo hhi hint hieio => bit_ctcDrive_out n _ p hhi (.inr hlo) hint hieio
  · exact fun st hr hi => data_pioTick_of_not_driving C st p hr hi

/-! ### The reset state -/

/-- The reference parameters pass every check of R27, for the colour variant and the default sample count. -/
theorem referenceParams_configWf : configWf referenceParams .color referenceParams.defaultAudioSamples = true := by decide

/-- Settles O43: the reference configuration is well formed, and every other field of the reset state is empty or 0. -/
theorem resetStateMeetsTheInvariant : Obligations.ResetStateMeetsTheInvariant where
  valid := rfl
  config := referenceParams_configWf
  map := rfl
  cellsForm := rfl
  cellsSize := rfl
  pins := by decide
  audioPos := by decide
  clkRem := by decide
  blinkCounter := by decide
  blinkFF := by decide

end Sys2Proof.Machine
end

section
/-! The invariant of a valid instance along every step and every Execute call (10_state R54, R66 to R70; 40_tick_engine R222, R226,
R229), and what no Tick reaches (10_state R73, 20_memory R106). One lemma says what a Tick can do, one lemma per operation says that it
keeps the invariant, and the obligations put them together. -/

namespace Sys2Proof.Machine

/-! ### What a Tick can do -/

/-- The row of a device is the one its register number picks, so it is peripheral when all four are. -/
theorem isMemoryRow_decodeReg (r0 r1 r2 r3 : Byte → Bool → Bool → Instr) (p : Pins)
    (h : ∀ r ∈ [r0, r1, r2, r3], ∀ d rd wr, isMemoryRow (r d rd wr) = false) : isMemoryRow (decodeReg r0 r1 r2 r3 p) = false := by
  unfold decodeReg
  cases Bus.a1 p <;> cases Bus.a0 p <;> exact h _ (by simp) _ _ _

/-- The unmapped rows are peripheral. -/
theorem isMemoryRow_decodeUnmapped (p : Pins) : isMemoryRow (decodeUnmapped p) = false := by
  unfold decodeUnmapped
  cases Bus.bit 7 p <;> cases Bus.bit 6 p <;> cases Bus.bit 5 p <;> rfl

/-- The I/O group has no memory row. -/
theorem isMemoryRow_decodeIo (P : Params) (p : Pins) : isMemoryRow (decodeIo P p) = false := by
  unfold decodeIo
  split_ifs
  · rfl
  · exact isMemoryRow_decodeReg _ _ _ _ p (by simp [isMemoryRow])
  · exact isMemoryRow_decodeReg _ _ _ _ p (by simp [isMemoryRow])
  · exact isMemoryRow_decodeReg _ _ _ _ p (by simp [isMemoryRow])
  · exact isMemoryRow_decodeUnmapped p

/-- The row that names a word's peripheral phase is no memory row. -/
theorem isMemoryRow_decodeBus (P : Params) (p : Pins) : isMemoryRow (decodeBus P p) = false := by
  unfold decodeBus decodeAck decodeSig
  cases Bus.isInta p <;> cases Bus.reti p
  case false.false => exact isMemoryRow_decodeIo P p
  all_goals rfl

/-- Running the memory row a word decodes to is step 2 of R200. -/
theorem exec_decodeMem_eq_memPhase (s : State) : exec (decodeMem s.pins) s = memPhase s := by
  rw [exec_decodeMem, memPhase]
  cases hm : Bus.mreq s.pins <;> cases hr : Bus.rd s.pins <;> cases hw : Bus.wr s.pins
  case true.true.true =>
    have hself : present s.params (.memRdwr (Bus.addr s.pins)) s.pins = s.pins := by
      have := presentMem_self s.pins hm
      rwa [hr, hw] at this
    rw [hself]; rfl
  all_goals rfl

/-- Everything a Tick can do: step 2, then the peripheral phase of the row decoded from the word it leaves, then steps 6 and 7. -/
theorem tick_next {s t : State} (h : tick s = .next t) : ∃ u, memPhase (cpuPhase s.params.chips s) = .next u ∧
    t = blinkStep (audioStep s.params.chips (ioPhase s.params.chips (presentRow (decodeBus u.params u.pins) u))) := by
  rw [tick] at h
  obtain ⟨v, hrows, h⟩ := andThen_completes h
  rw [runRows_eq, exec_decodeMem_eq_memPhase] at hrows
  obtain ⟨u, hmem, hperi⟩ := andThen_completes hrows
  rw [exec_peripheral _ _ (isMemoryRow_decodeBus _ _), memPhase_params hmem, cpuPhase_params] at hperi
  cases hperi
  cases h
  exact ⟨u, hmem, by rw [memPhase_params hmem, cpuPhase_params]⟩

/-! ### What no Tick reaches -/

/-- Step 2 writes the bus word and RAM alone. -/
theorem memPhase_frame {s t : State} (h : memPhase s = .next t) : t = { s with pins := t.pins, ram := t.ram } := by
  rcases memPhase_cases h with ⟨rfl, _⟩ | ⟨rfl, _⟩ | ⟨rfl, _⟩ <;> rfl

/-- The blink state after step 7 is a function of the blink state before it and the clock parameter. -/
theorem blinkStep_congr {s u : State} (hp : u.params = s.params) (hc : u.blinkCounter = s.blinkCounter) (hf : u.blinkFF = s.blinkFF) :
    (blinkStep u).blinkCounter = (blinkStep s).blinkCounter ∧ (blinkStep u).blinkFF = (blinkStep s).blinkFF := by
  rw [blinkStep_blinkCounter, blinkStep_blinkCounter, blinkStep_blinkFF, blinkStep_blinkFF, hp, hc, hf]
  exact ⟨rfl, rfl⟩

/-- Settles O40: steps 1 to 6 keep these fields, so step 7, the only one to write the blink state, finds that of the Tick's start. -/
theorem noBusCycleReachesTheConfiguration : Obligations.NoBusCycleReachesTheConfiguration := by
  intro s t h
  obtain ⟨u, hmem, rfl⟩ := tick_next h
  rw [memPhase_frame hmem]
  -- Eleven fields no phase writes, then the blink state.
  refine ⟨?_, ?_, ?_, ?_, ?_, ?_, ?_, ?_, ?_, ?_, ?_, blinkStep_congr ?_ ?_ ?_⟩ <;> simp

/-! ### The invariant's two checks on the blocks, taken apart -/

theorem memoriesWf_iff (s : State) : memoriesWf s = true ↔
    cellsWf ramBg s.ram = true ∧ cellsWf romBg s.rom = true ∧ cellsWf fontBg s.font = true ∧ cellsWf fbBg s.fb = true ∧
      cellsWf (Config.audioUndef s.audioFill) s.audioBuf = true := by
  simp only [memoriesWf, Bool.and_eq_true, and_assoc]

theorem memoriesSized_iff (s : State) : memoriesSized s = true ↔
    cellsBelow s.params.ramSize s.ram = true ∧ cellsBelow (romSize s.params s.variant) s.rom = true ∧
      cellsBelow fontSize s.font = true ∧ cellsBelow fbSize s.fb = true ∧ cellsBelow s.audioPos s.audioBuf = true := by
  simp only [memoriesSized, Bool.and_eq_true, and_assoc]

/-! ### The operations of a cycle keep the invariant -/

/-- The flip leaves bits 6..0 of the flip-flop (R226). -/
theorem blinkFlip_and_low (ff : BitVec 8) : blinkFlip ff &&& 0x7F#8 = ff &&& 0x7F#8 := by
  revert ff; decide

/-- A sample is appended below the next write position; one that fills the buffer leaves it empty, at position 0 (R221, R222). -/
theorem audioPush_buffer {s : State} (v : Sample) (hwf : cellsWf (Config.audioUndef s.audioFill) s.audioBuf = true)
    (hbelow : cellsBelow s.audioPos s.audioBuf = true) (hpos : s.audioPos < s.audioN) :
    cellsWf (Config.audioUndef (audioPush s v).audioFill) (audioPush s v).audioBuf = true ∧
      cellsBelow (audioPush s v).audioPos (audioPush s v).audioBuf = true ∧ (audioPush s v).audioPos < (audioPush s v).audioN := by
  rw [audioPush_audioN]
  cases hfull : audioFull s with
  | true =>
    simp only [audioPush, hfull, if_true]
    exact ⟨rfl, rfl, by omega⟩
  | false =>
    have hnext : s.audioPos + 1 ≠ s.audioN := by simpa [audioFull] using hfull
    have hroom : cellsBelow (s.audioPos + 1) s.audioBuf = true := cellsBelow_mono (Nat.le_succ _) hbelow
    simp only [audioPush, hfull, Bool.false_eq_true, if_false, audioAppend]
    exact ⟨cellsWf_write _ _ hwf _ _, cellsBelow_write _ _ _ _ _ hroom (Nat.lt_succ_self _), by omega⟩

section
variable {s : State} (hs : Inv s)
include hs

/-- Canonical pins may replace the stored ones. -/
theorem inv_setPins {p : Pins} (hp : Bus.Canonical p) : Inv { s with pins := p } := { hs with pins := hp }

theorem inv_cpuPhase (C : Collaborators) : Inv (cpuPhase C s) := { hs with pins := Bus.canonical_mask _ }

/-- A write lands in a writable binding of the well-formed map, so inside RAM. -/
theorem inv_memWrite (a : Addr) (v : Byte) : Inv (memWrite s a v) := by
  have hmap : mapWf s.params s.variant s.map = true := hs.map ▸ configWf_map hs.config
  obtain ⟨ramWf, othersWf⟩ := (memoriesWf_iff s).1 hs.cellsForm
  obtain ⟨ramBelow, othersBelow⟩ := (memoriesSized_iff s).1 hs.cellsSize
  exact { hs with
    cellsForm := (memoriesWf_iff _).2 ⟨memWrite_wf s a v ramWf, othersWf⟩
    cellsSize := (memoriesSized_iff _).2 ⟨memWrite_below s a v hmap ramBelow, othersBelow⟩ }

theorem inv_memPhase {t : State} (h : memPhase s = .next t) : Inv t := by
  rcases memPhase_cases h with ⟨rfl, _⟩ | ⟨rfl, _⟩ | ⟨rfl, _⟩
  · exact hs
  · exact inv_setPins hs (Bus.canonical_setField 16 _ _ hs.pins (by decide))
  · exact inv_memWrite hs _ _

theorem inv_presentRow (i : Instr) : Inv (presentRow i s) := inv_setPins hs (present_canonical s.params i s.pins hs.pins)

theorem inv_ioPhase (C : Collaborators) : Inv (ioPhase C s) := { hs with pins := ioPhase_canonical C s }

theorem inv_audioPush (v : Sample) : Inv (audioPush s v) := by
  obtain ⟨ramWf, romWf, fontWf, fbWf, audioWf⟩ := (memoriesWf_iff s).1 hs.cellsForm
  obtain ⟨ramBelow, romBelow, fontBelow, fbBelow, audioBelow⟩ := (memoriesSized_iff s).1 hs.cellsSize
  obtain ⟨audioWf', audioBelow', audioPos'⟩ := audioPush_buffer v audioWf audioBelow hs.audioPos
  exact { hs with
    cellsForm := (memoriesWf_iff _).2 ⟨ramWf, romWf, fontWf, fbWf, audioWf'⟩
    cellsSize := (memoriesSized_iff _).2 ⟨ramBelow, romBelow, fontBelow, fbBelow, audioBelow'⟩
    audioPos := audioPos' }

theorem inv_audioStep (C : Collaborators) : Inv (audioStep C s) := by
  cases h : (C.beeperTick s.beeper).2 with
  | none => rw [audioStep_none C s h]; exact { hs with }
  | some v => rw [audioStep_some C s v h]; exact { inv_audioPush hs v with }

theorem inv_blinkStep : Inv (blinkStep s) := by
  refine { hs with blinkCounter := blinkStep_le s hs.blinkCounter, blinkFF := ?_ }
  rw [blinkStep_blinkFF]
  split
  · exact (blinkFlip_and_low s.blinkFF).trans hs.blinkFF
  · exact hs.blinkFF

theorem inv_hookCall (draw : Nat → Bool) : Inv (hookCall draw s) := { hs with }

theorem inv_tick {t : State} (h : tick s = .next t) : Inv t := by
  obtain ⟨u, hmem, rfl⟩ := tick_next h
  have hu : Inv u := inv_memPhase (inv_cpuPhase hs _) hmem
  exact inv_blinkStep (inv_audioStep (inv_ioPhase (inv_presentRow hu _) _) _)

/-- One pass of Execute's loop body keeps the invariant, whatever the host draws. -/
theorem inv_cycle {draw : Nat → Bool} {t : State} (h : cycle draw s = .next t) : Inv t := by
  rw [cycle] at h
  obtain ⟨u, htick, h⟩ := andThen_completes h
  cases h
  exact inv_hookCall (inv_tick hs htick) draw

/-! ### The rest of an Execute call keeps the invariant -/

theorem inv_withFb {fb : List Host.Cell} (hwf : cellsWf fbBg fb = true) (hbelow : cellsBelow fbSize fb = true) : Inv (withFb s fb) := by
  obtain ⟨ramWf, romWf, fontWf, -, audioWf⟩ := (memoriesWf_iff s).1 hs.cellsForm
  obtain ⟨ramBelow, romBelow, fontBelow, -, audioBelow⟩ := (memoriesSized_iff s).1 hs.cellsSize
  exact { hs with
    cellsForm := (memoriesWf_iff _).2 ⟨ramWf, romWf, fontWf, hwf, audioWf⟩
    cellsSize := (memoriesSized_iff _).2 ⟨ramBelow, romBelow, fontBelow, hbelow, audioBelow⟩ }

theorem inv_videoDecode : Inv (videoDecode s) := by
  obtain ⟨-, -, -, fbWf, -⟩ := (memoriesWf_iff s).1 hs.cellsForm
  obtain ⟨-, -, -, fbBelow, -⟩ := (memoriesSized_iff s).1 hs.cellsSize
  rw [videoDecode_eq]
  exact inv_withFb hs (decodedFb_wf s fbWf) (decodedFb_below s fbBelow)

theorem inv_endSlice (us : Nat) : Inv (endSlice us s) := inv_videoDecode { hs with }

/-- The remainder Execute stores is a remainder by the million, so below it. -/
theorem inv_setClkRem (total : Nat) : Inv { s with clkRem := total % 1000000 } :=
  { hs with clkRem := Nat.mod_lt _ (by decide) }

theorem inv_executeState {draw : Nat → Bool} {us n : Nat} {t : State} (h : executeState draw us s = .next (t, n)) : Inv t := by
  rw [executeState] at h
  obtain ⟨⟨u, k⟩, hloop, h⟩ := andThen_completes h
  cases h
  have hu : Inv u := runCycles_keeps draw Inv (fun _ _ hv hcycle => inv_cycle hv hcycle) _ _ hloop (inv_setClkRem hs _)
  exact inv_endSlice hu us

end

/-! ### The two obligations -/

/-- Settles O42: the step of a valid instance is one cycle with the machine's own draws, and a cycle keeps the invariant. -/
theorem stepKeepsTheInvariant : Obligations.StepKeepsTheInvariant := by
  intro s t hs h
  rw [step, stepCycle, if_pos hs.valid] at h
  exact inv_cycle hs h

/-- Settles O51: the loop keeps what every cycle keeps, and the remainder, the keyboard's ageing and the video decode around it keep
the invariant too. -/
theorem executeKeepsTheInvariant : Obligations.ExecuteKeepsTheInvariant := by
  intro draw s t us n hs h
  exact inv_executeState hs (checked_next h).2

end Sys2Proof.Machine
end

section
/-! The memory map as a CPU cycle sees it (20_memory R104 to R126): which byte a read gives, which byte a write stores to, and that no
other operation of a Tick reaches memory. -/

namespace Sys2Proof.Machine

/-! ### A read, by the binding that serves it -/

section
variable {s : State} {a : Addr} {b : Binding}

/-- An address no binding serves reads the parameter's byte (R110). -/
theorem memRead_unmapped (h : topBinding s.map a.toNat = none) : memRead s a = s.params.unmappedRead := by
  rw [memRead, h]

/-- A RAM binding serves a read from RAM (R110). -/
theorem memRead_of_ram (h : topBinding s.map a.toNat = some b) (hram : b.store = .ram) :
    memRead s a = cellRead ramBg s.ram (Binding.indexOf b a.toNat) := by
  simp only [memRead, h, hram]

/-- A ROM binding serves a read from ROM (R110). -/
theorem memRead_of_rom (h : topBinding s.map a.toNat = some b) (hrom : b.store = .rom) :
    memRead s a = cellRead romBg s.rom (Binding.indexOf b a.toNat) := by
  simp only [memRead, h, hrom]

/-! ### A write, by the binding that serves it -/

/-- A write to an unmapped address stores nowhere (R113). -/
theorem memWriteIndex_unmapped (h : topBinding s.map a.toNat = none) : memWriteIndex s a = none := by
  rw [memWriteIndex, h]

/-- A write through a read-only binding stores nowhere (R112). -/
theorem memWriteIndex_readOnly (h : topBinding s.map a.toNat = some b) (hro : b.readOnly = true) : memWriteIndex s a = none := by
  simp only [memWriteIndex, h, hro, if_true]

/-- A write that stores nowhere leaves the whole state. -/
theorem memWrite_absorbed (v : Byte) (h : memWriteIndex s a = none) : memWrite s a v = s := by
  simp only [memWrite, h]

end

/-- A byte that a write does not store to stays, whatever form RAM has. -/
theorem cellRead_memWrite_other {s : State} {a : Addr} {k : Nat} (v : Byte) (h : memWriteIndex s a ≠ some k) :
    cellRead ramBg (memWrite s a v).ram k = cellRead ramBg s.ram k := by
  cases hw : memWriteIndex s a with
  | none => rw [memWrite_absorbed v hw]
  | some j =>
    have hkj : k ≠ j := by rintro rfl; exact h hw
    simp only [memWrite_ram, hw]
    exact cellRead_write_other ramBg s.ram j k v hkj

/-- MEM_WR is the map's write (40_tick_engine R205). -/
theorem exec_memWr (a : Addr) (d : Byte) (s : State) : exec (.memWr a d) s = .next (memWrite s a d) := rfl

/-! ### What the CPU reads depends on -/

/-- What the CPU reads depends on the map, RAM, ROM and the parameters alone. -/
theorem memRead_congr {s t : State} (hmap : t.map = s.map) (hram : t.ram = s.ram) (hrom : t.rom = s.rom)
    (hparams : t.params = s.params) (a : Addr) : memRead t a = memRead s a := by
  rw [memRead, memRead, hmap, hram, hrom, hparams]

/-- A write does not change what the CPU reads where no binding serves the address. -/
theorem memRead_memWrite_unmapped {s : State} {a' : Addr} (h : topBinding s.map a'.toNat = none) (a : Addr) (v : Byte) :
    memRead (memWrite s a v) a' = memRead s a' :=
  (memRead_unmapped (s := memWrite s a v) h).trans (memRead_unmapped h).symm

/-- Read after write through the map: the byte written where the serving binding aliases the RAM byte stored to, the old byte
elsewhere (R111, R112, R114, R126). -/
theorem memRead_memWrite_mapped {s : State} {a' : Addr} {b : Binding} (hwf : cellsWf ramBg s.ram = true)
    (h : topBinding s.map a'.toNat = some b) (a : Addr) (v : Byte) :
    memRead (memWrite s a v) a' =
      if b.store = .ram ∧ memWriteIndex s a = some (Binding.indexOf b a'.toNat) then v else memRead s a' := by
  have ht : topBinding (memWrite s a v).map a'.toNat = some b := h
  cases hst : b.store with
  | ram => simp only [memRead_of_ram ht hst, memRead_of_ram h hst, cellRead_memWrite s a v hwf, true_and]
  | rom => simp only [memRead_of_rom ht hst, memRead_of_rom h hst, memWrite_rom, reduceCtorEq, false_and, if_false]

/-! ### RAM over a Tick -/

/-- Step 2 leaves RAM alone outside a memory write cycle (R118). -/
theorem memPhase_ram {s u : State} (h : memPhase s = .next u) (hnw : (Bus.mreq s.pins && Bus.wr s.pins) = false) : u.ram = s.ram := by
  obtain ⟨rfl, -⟩ | ⟨rfl, -⟩ | ⟨-, hw⟩ := memPhase_cases h
  · rfl
  · rfl
  · rw [hnw] at hw; cases hw

/-- Step 2 changes at most the byte behind the address (40_tick_engine R205). -/
theorem cellRead_memPhase_other {s u : State} {k : Nat} (h : memPhase s = .next u)
    (hk : memWriteIndex s (Bus.addr s.pins) ≠ some k) : cellRead ramBg u.ram k = cellRead ramBg s.ram k := by
  obtain ⟨rfl, -⟩ | ⟨rfl, -⟩ | ⟨rfl, -⟩ := memPhase_cases h
  · rfl
  · rfl
  · exact cellRead_memWrite_other _ hk

/-- The RAM a Tick leaves is the RAM step 2 leaves (R119). -/
theorem tick_ram {s t : State} (h : tick s = .next t) : ∃ u, memPhase (cpuPhase s.params.chips s) = .next u ∧ t.ram = u.ram := by
  obtain ⟨u, hmem, rfl⟩ := tick_next h
  exact ⟨u, hmem, by simp⟩

/-! ### The obligations -/

/-- Settles O9: the covering binding of the highest layer is the one the decoder finds, and it finds none where none covers. -/
theorem memReadServesTheTopBinding : Obligations.MemReadServesTheTopBinding := by
  intro s a hmap
  constructor
  · intro b hb hcov hmax
    have htop := topBinding_eq (mapWf_layers hmap) hb hcov hmax
    cases hst : b.store with
    | ram => exact memRead_of_ram htop hst
    | rom => exact memRead_of_rom htop hst
  · exact fun hnone => memRead_unmapped (topBinding_none.2 hnone)

/-- Settles O11: in both cases the write stores nowhere. -/
theorem absorbedWritesChangeNothing : Obligations.AbsorbedWritesChangeNothing := by
  intro s a d hmap
  constructor
  · intro b hb hcov hmax hro
    have htop := topBinding_eq (mapWf_layers hmap) hb hcov hmax
    rw [exec_memWr, memWrite_absorbed d (memWriteIndex_readOnly htop hro)]
  · intro hnone
    rw [exec_memWr, memWrite_absorbed d (memWriteIndex_unmapped (topBinding_none.2 hnone))]

/-- Settles O12, by the binding that serves the address read. -/
theorem readAfterWriteThroughTheMap : Obligations.ReadAfterWriteThroughTheMap := by
  intro s a d hwf _
  refine ⟨memWrite s a d, exec_memWr a d s, fun a' => ?_⟩
  cases htop : topBinding s.map a'.toNat with
  | none => exact memRead_memWrite_unmapped htop a d
  | some b => exact memRead_memWrite_mapped hwf htop a d

/-- Settles O21: every row outside the memory group is the peripheral phase, whose stages write no other field, so none that a read
depends on. -/
theorem peripheralRowsFrame : Obligations.PeripheralRowsFrame := by
  intro s t i hi h
  rw [exec_peripheral i s hi] at h
  cases h
  exact ⟨rfl, memRead_congr (by simp) (by simp) (by simp) (by simp)⟩

/-- Settles O41: step 1 keeps RAM and the map, step 2 writes at most the byte behind the address, and the later steps keep RAM. -/
theorem tickWritesAtMostOneByte : Obligations.TickWritesAtMostOneByte := by
  intro s t h
  obtain ⟨u, hmem, hram⟩ := tick_ram h
  rw [hram, ← cpuPhase_ram s.params.chips s]
  exact ⟨fun hnw => memPhase_ram hmem hnw, fun k hk => cellRead_memPhase_other hmem hk⟩

end Sys2Proof.Machine
end

section
/-! The decode map and its encoder (30_encoding R161 to R166): a presented row decodes to itself, a decoded row stands on its word, and
the rows a word decodes to are those of the table. -/

namespace Sys2Proof

open Machine

/-! ### A presented row decodes to itself -/

section
variable {P : Params} (reg : BitVec 2) (d : Byte) (rd wr : Bool) (p : Pins)

theorem decodeIo_presentIo_pio1 : decodeIo P (presentIo P.pio1Sel reg d rd wr p) =
    decodeReg .pio1DataA .pio1DataB .pio1CtrlA .pio1CtrlB (presentIo P.pio1Sel reg d rd wr p) := by
  rw [decodeIo_presentIo, if_pos rfl]

theorem decodeIo_presentIo_pio2 (hP : P.SelectsDistinct) : decodeIo P (presentIo P.pio2Sel reg d rd wr p) =
    decodeReg .pio2DataA .pio2DataB .pio2CtrlA .pio2CtrlB (presentIo P.pio2Sel reg d rd wr p) := by
  obtain ⟨h12, -, -⟩ := hP
  rw [decodeIo_presentIo, if_neg h12.symm, if_pos rfl]

theorem decodeIo_presentIo_ctc (hP : P.SelectsDistinct) : decodeIo P (presentIo P.ctcSel reg d rd wr p) =
    decodeReg .ctcCh0 .ctcCh1 .ctcCh2 .ctcCh3 (presentIo P.ctcSel reg d rd wr p) := by
  obtain ⟨-, h1c, h2c⟩ := hP
  rw [decodeIo_presentIo, if_neg h1c.symm, if_neg h2c.symm, if_pos rfl]

end

/-- The acknowledge row of a presented acknowledge. -/
theorem decodeAck_present (P : Params) (a : Addr) (p : Pins) : decodeAck (present P (.inta a) p) = some (.inta a) := by
  rw [decodeAck, Bus.isInta, present_inta_m1, present_inta_iorq, present_inta_addr]
  rfl

/-- A presented RETI stands on the bus word. -/
theorem present_reti_reti (P : Params) (p : Pins) : Bus.reti (present P .reti p) = true := Bus.bit_setBit_same 38 (by omega) true p

/-- The RETI row of a presented RETI. -/
theorem decodeSig_present (P : Params) (p : Pins) : decodeSig (present P .reti p) = some .reti := by
  rw [decodeSig, present_reti_reti, if_pos rfl]

/-- A presented IO_NONE has no I/O request. -/
theorem decodeIo_present_ioNone (P : Params) (p : Pins) : decodeIo P (present P .ioNone p) = .ioNone :=
  if_pos (Bus.bit_setBit_same 26 (by omega) false p)

/-- A well-formed unmapped row has a select that is no device's (30_encoding R164). -/
theorem noDevice_of_wellFormed {P : Params} {i : Instr} {sel : BitVec 5} (hi : i.wellFormed P = true)
    (hs : i.unmappedSel = some sel) : P.NoDevice sel := by
  simpa [Instr.wellFormed, hs] using hi

/-! The select of each unmapped row: the bits that pick the row, and the operand in the bits below them (30_encoding R164). -/

theorem select_lo (low : BitVec 4) : BitVec.getLsbD (w := 5) (0#1 ++ low) 4 = false ∧ BitVec.setWidth (w := 5) 4 (0#1 ++ low) = low := by
  revert low; decide

theorem select_hi (low : BitVec 3) : BitVec.getLsbD (w := 5) (3#2 ++ low) 4 = true ∧ BitVec.getLsbD (w := 5) (3#2 ++ low) 3 = true ∧
    BitVec.setWidth (w := 5) 3 (3#2 ++ low) = low := by
  revert low; decide

theorem select_a0 (low : BitVec 2) : BitVec.getLsbD (w := 5) (5#3 ++ low) 4 = true ∧ BitVec.getLsbD (w := 5) (5#3 ++ low) 3 = false ∧
    BitVec.getLsbD (w := 5) (5#3 ++ low) 2 = true ∧ BitVec.setWidth (w := 5) 2 (5#3 ++ low) = low := by
  revert low; decide

theorem select_98 (low : BitVec 2) : BitVec.getLsbD (w := 5) (4#3 ++ low) 4 = true ∧ BitVec.getLsbD (w := 5) (4#3 ++ low) 3 = false ∧
    BitVec.getLsbD (w := 5) (4#3 ++ low) 2 = false ∧ BitVec.setWidth (w := 5) 2 (4#3 ++ low) = low := by
  revert low; decide

/-- A presented unmapped row decodes to itself: A7..A5 pick the row and the rest of the select is its operand. -/
theorem decodeIo_present_unmapped {P : Params} {i : Instr} {sel : BitVec 5} (p : Pins) (hi : i.wellFormed P = true)
    (hs : i.unmappedSel = some sel) : decodeIo P (present P i p) = i := by
  have hno := noDevice_of_wellFormed hi hs
  cases i with
  | ioUnmappedLo low d rd wr | ioUnmappedHi low d rd wr | ioUnmappedA0 low d rd wr | ioUnmapped98 low d rd wr =>
    cases hs
    rw [present, decodeIo_presentUnmapped P _ d rd wr p hno]
    simp only [select_lo, select_hi, select_a0, select_98]
  | _ => cases hs

/-- Settles O1, group by group: the memory rows, the I/O rows by device, the unmapped rows, and the two signals. -/
theorem decodeOfPresentedRowIsTheRow : Obligations.DecodeOfPresentedRowIsTheRow := by
  intro P i p hP hi
  cases i with
  | memNone | memRd a | memWr a d | memNoacc a | memRdwr a => exact congrArg some (decodeMem_present P _ p rfl)
  | ctcCh0 d rd wr | ctcCh1 d rd wr | ctcCh2 d rd wr | ctcCh3 d rd wr =>
    exact congrArg some ((decodeIo_presentIo_ctc _ d rd wr p hP).trans (decodeReg_presentIo ..))
  | pio1DataA d rd wr | pio1DataB d rd wr | pio1CtrlA d rd wr | pio1CtrlB d rd wr =>
    exact congrArg some ((decodeIo_presentIo_pio1 _ d rd wr p).trans (decodeReg_presentIo ..))
  | pio2DataA d rd wr | pio2DataB d rd wr | pio2CtrlA d rd wr | pio2CtrlB d rd wr =>
    exact congrArg some ((decodeIo_presentIo_pio2 _ d rd wr p hP).trans (decodeReg_presentIo ..))
  | ioNone => exact congrArg some (decodeIo_present_ioNone P p)
  | ioUnmappedLo low d rd wr | ioUnmappedHi low d rd wr | ioUnmappedA0 low d rd wr | ioUnmapped98 low d rd wr =>
    exact congrArg some (decodeIo_present_unmapped p hi rfl)
  | inta a => exact decodeAck_present P a p
  | reti => exact decodeSig_present P p

/-! ### The encoder sets no signal that a presented row does not fix -/

section
variable {n : Nat} {p q : Pins} (h : Bus.bit n p = true → Bus.bit n q = true)
include h

theorem presentMem_mono (rd wr : Bool) (a : Addr) :
    Bus.bit n (presentMem rd wr a p) = true → Bus.bit n (presentMem rd wr a q) = true :=
  Bus.setBit_mono n 28 wr (Bus.setBit_mono n 27 rd (Bus.setField_mono n 0 a (Bus.setBit_mono n 25 true h)))

theorem presentUnmapped_mono (sel : BitVec 5) (d : Byte) (rd wr : Bool) :
    Bus.bit n (presentUnmapped sel d rd wr p) = true → Bus.bit n (presentUnmapped sel d rd wr q) = true :=
  Bus.setBit_mono n 28 wr (Bus.setBit_mono n 27 rd (Bus.setField_mono n 16 d (Bus.setField_mono n 3 sel (Bus.setBit_mono n 26 true h))))

theorem presentIo_mono (sel : BitVec 5) (reg : BitVec 2) (d : Byte) (rd wr : Bool) :
    Bus.bit n (presentIo sel reg d rd wr p) = true → Bus.bit n (presentIo sel reg d rd wr q) = true :=
  Bus.setBit_mono n 28 wr (Bus.setBit_mono n 27 rd (Bus.setField_mono n 16 d (Bus.setField_mono n 0 reg (Bus.setField_mono n 3 sel
    (Bus.setBit_mono n 26 true h)))))

/-- Presenting a row on a word with more signals set leaves more signals set. -/
theorem present_mono (P : Params) (i : Instr) : Bus.bit n (present P i p) = true → Bus.bit n (present P i q) = true := by
  cases i with
  | memNone => exact Bus.setBit_mono n 25 false h
  | memRd a | memNoacc a | memRdwr a => exact presentMem_mono h _ _ a
  | memWr a d => exact Bus.setField_mono n 16 d (presentMem_mono h false true a)
  | ioNone => exact Bus.setBit_mono n 26 false h
  | ioUnmappedLo low d rd wr | ioUnmappedHi low d rd wr | ioUnmappedA0 low d rd wr | ioUnmapped98 low d rd wr =>
    exact presentUnmapped_mono h _ d rd wr
  | inta a => exact Bus.setField_mono n 0 a (Bus.setBit_mono n 26 true (Bus.setBit_mono n 24 true h))
  | reti => exact Bus.setBit_mono n 38 true h
  | _ => exact presentIo_mono h _ _ _ _ _

end

/-- Settles O2: an encoded row is the row presented on the word 0, which is canonical and has no signal set. -/
theorem decodeOfEncodeIsTheRow : Obligations.DecodeOfEncodeIsTheRow := by
  intro P i hP hi
  have hzero : ∀ n (q : Pins), Bus.bit n 0#64 = true → Bus.bit n q = true := by simp [Bus.bit]
  exact ⟨decodeOfPresentedRowIsTheRow P i 0#64 hP hi, present_canonical P i 0#64 (by decide), fun n p => present_mono (hzero n p) P i⟩

/-! ### A decoded row stands on its word -/

/-- The row stands on the word: it is well formed, and the word holds its pattern and operands already. -/
def StandsOn (P : Params) (p : Pins) (i : Instr) : Prop := i.wellFormed P = true ∧ present P i p = p

theorem standsOn_decodeMem (P : Params) (p : Pins) : StandsOn P p (decodeMem p) := by
  have hself := presentMem_self p
  unfold decodeMem
  cases hm : Bus.mreq p with
  | false => exact ⟨rfl, Bus.setBit_self 25 (by omega) false p hm⟩
  | true =>
    replace hself := hself hm
    cases hr : Bus.rd p <;> cases hw : Bus.wr p <;> rw [hr, hw] at hself
    case false.true => exact ⟨rfl, (congrArg (Bus.setData (Bus.data p)) hself).trans (Bus.setField_self 16 (Bus.data p) p rfl)⟩
    all_goals exact ⟨rfl, hself⟩

/-- A claim about the register row of a word, by its register number. -/
theorem decodeReg_cases {motive : Instr → Prop} {r0 r1 r2 r3 : Byte → Bool → Bool → Instr} {p : Pins}
    (h0 : Bus.reg p = 0#2 → motive (r0 (Bus.data p) (Bus.rd p) (Bus.wr p)))
    (h1 : Bus.reg p = 1#2 → motive (r1 (Bus.data p) (Bus.rd p) (Bus.wr p)))
    (h2 : Bus.reg p = 2#2 → motive (r2 (Bus.data p) (Bus.rd p) (Bus.wr p)))
    (h3 : Bus.reg p = 3#2 → motive (r3 (Bus.data p) (Bus.rd p) (Bus.wr p))) : motive (decodeReg r0 r1 r2 r3 p) := by
  have hreg := Bus.reg_cases p
  unfold decodeReg
  cases ha1 : Bus.a1 p <;> cases ha0 : Bus.a0 p <;> rw [ha1, ha0] at hreg
  · exact h0 hreg
  · exact h1 hreg
  · exact h2 hreg
  · exact h3 hreg

theorem standsOn_decodeUnmapped {P : Params} {p : Pins} (hio : Bus.iorq p = true) (hno : P.NoDevice (Bus.aSel p)) :
    StandsOn P p (decodeUnmapped p) := by
  obtain ⟨hsel, hpresent⟩ := unmappedSel_decodeUnmapped p
  exact ⟨by rw [Instr.wellFormed, hsel]; exact decide_eq_true hno, (hpresent P).trans (presentUnmapped_self p hio)⟩

/-- A claim about the I/O row of a word, by the device its select picks. -/
theorem decodeIo_cases {motive : Instr → Prop} {P : Params} {p : Pins} (hnone : Bus.iorq p = false → motive .ioNone)
    (hpio1 : Bus.iorq p = true → Bus.aSel p = P.pio1Sel → motive (decodeReg .pio1DataA .pio1DataB .pio1CtrlA .pio1CtrlB p))
    (hpio2 : Bus.iorq p = true → Bus.aSel p = P.pio2Sel → motive (decodeReg .pio2DataA .pio2DataB .pio2CtrlA .pio2CtrlB p))
    (hctc : Bus.iorq p = true → Bus.aSel p = P.ctcSel → motive (decodeReg .ctcCh0 .ctcCh1 .ctcCh2 .ctcCh3 p))
    (hunmapped : Bus.iorq p = true → P.NoDevice (Bus.aSel p) → motive (decodeUnmapped p)) : motive (decodeIo P p) := by
  unfold decodeIo
  cases hio : Bus.iorq p with
  | false => exact hnone hio
  | true =>
    rw [if_neg Bool.true_eq_false_eq_False]
    split_ifs with h1 h2 hc
    · exact hpio1 hio h1
    · exact hpio2 hio h2
    · exact hctc hio hc
    · exact hunmapped hio ⟨h1, h2, hc⟩

theorem standsOn_decodeIo (P : Params) (p : Pins) : StandsOn P p (decodeIo P p) := by
  refine decodeIo_cases (fun hio => ⟨rfl, Bus.setBit_self 26 (by omega) false p hio⟩) ?_ ?_ ?_ standsOn_decodeUnmapped
  all_goals
    intro hio hsel
    apply decodeReg_cases
    all_goals exact fun hreg => ⟨rfl, presentIo_self _ _ p hio hsel hreg⟩

/-- The acknowledge group has a row exactly for a word with M1 and IORQ. -/
theorem decodeAck_eq_some {p : Pins} {i : Instr} : decodeAck p = some i ↔ Bus.isInta p = true ∧ i = .inta (Bus.addr p) := by
  rw [decodeAck, Option.ite_none_right_eq_some, Option.some.injEq, eq_comm (a := i)]

/-- The RETI group has a row exactly for a word with RETI. -/
theorem decodeSig_eq_some {p : Pins} {i : Instr} : decodeSig p = some i ↔ Bus.reti p = true ∧ i = .reti := by
  rw [decodeSig, Option.ite_none_right_eq_some, Option.some.injEq, eq_comm (a := i)]

theorem isInta_iff (p : Pins) : Bus.isInta p = true ↔ Bus.m1 p = true ∧ Bus.iorq p = true := Bool.and_eq_true_iff

theorem standsOn_of_decodeAck (P : Params) {p : Pins} {i : Instr} (h : decodeAck p = some i) : StandsOn P p i := by
  obtain ⟨hinta, rfl⟩ := decodeAck_eq_some.1 h
  obtain ⟨hm1, hio⟩ := (isInta_iff p).1 hinta
  refine ⟨rfl, ?_⟩
  rw [present, Bus.setBit_self 24 (by omega) true p hm1, Bus.setBit_self 26 (by omega) true p hio]
  exact Bus.setField_self 0 (Bus.addr p) p rfl

theorem standsOn_of_decodeSig (P : Params) {p : Pins} {i : Instr} (h : decodeSig p = some i) : StandsOn P p i := by
  obtain ⟨hreti, rfl⟩ := decodeSig_eq_some.1 h
  exact ⟨rfl, Bus.setBit_self 38 (by omega) true p hreti⟩

/-- The row that names a word's peripheral phase is its row of the acknowledge, the RETI or the I/O group. -/
theorem decodeBus_cases (P : Params) (p : Pins) :
    decodeAck p = some (decodeBus P p) ∨ decodeSig p = some (decodeBus P p) ∨ decodeBus P p = decodeIo P p := by
  unfold decodeBus
  cases decodeAck p <;> cases decodeSig p <;> simp

theorem standsOn_decodeBus (P : Params) (p : Pins) : StandsOn P p (decodeBus P p) := by
  obtain h | h | h := decodeBus_cases P p
  · exact standsOn_of_decodeAck P h
  · exact standsOn_of_decodeSig P h
  · rw [h]; exact standsOn_decodeIo P p

/-- Settles O3, group by group. -/
theorem decodedRowsStandOnTheirWord : Obligations.DecodedRowsStandOnTheirWord := by
  intro P p
  obtain ⟨hmem, hmem'⟩ := standsOn_decodeMem P p
  obtain ⟨hio, hio'⟩ := standsOn_decodeIo P p
  exact ⟨hmem, hmem', hio, hio', fun _ => standsOn_of_decodeAck P, fun _ => standsOn_of_decodeSig P, standsOn_decodeBus P p⟩

/-! ### The table's patterns, bit by bit -/

/-- The signals a mask of the table fixes, by their positions on the bus word. -/
def fixedBits (mask : Pins) : List Nat := (List.range 64).filter fun n => Bus.bit n mask

/-- A word meets a mask and a match inside it when it has the match's value at each bit of the mask. -/
theorem and_eq_iff_bits {p mask m : Pins} (hm : m &&& mask = m) :
    p &&& mask = m ↔ ∀ n ∈ fixedBits mask, Bus.bit n p = Bus.bit n m := by
  simp only [fixedBits, List.mem_filter, List.mem_range, Bus.bit]
  constructor
  · rintro rfl n ⟨-, hn⟩
    rw [BitVec.getLsbD_and, hn, Bool.and_true]
  · intro h
    apply BitVec.eq_of_getLsbD_eq
    intro n hn
    rw [BitVec.getLsbD_and]
    cases hb : mask.getLsbD n with
    | true => rw [Bool.and_true, h n ⟨hn, hb⟩]
    | false => rw [← hm, BitVec.getLsbD_and, hb, Bool.and_false, Bool.and_false]

/-- The match of a row of the table lies in its mask. -/
theorem tableRow_match_and_mask (i : Instr) : (tableRow i).1 &&& (tableRow i).2 = (tableRow i).1 := by
  cases i <;> simp only [tableRow] <;> decide

/-- A word matches a row of the table when it has the row's value at each bit of the row's mask. -/
theorem matchesRow_iff {p : Pins} {i : Instr} :
    MatchesRow p i ↔ (fixedBits (tableRow i).2).Forall fun n => Bus.bit n p = Bus.bit n (tableRow i).1 :=
  (and_eq_iff_bits (tableRow_match_and_mask i)).trans List.forall_iff_forall_mem.symm

/-! The ten masks of the table, their bits written out (30_encoding R162 to R166). -/

theorem fixedBits_memNone : fixedBits 0x2000000#64 = [25] := by decide
theorem fixedBits_mem : fixedBits 0x1A000000#64 = [25, 27, 28] := by decide
theorem fixedBits_ioNone : fixedBits 0x4000000#64 = [26] := by decide
theorem fixedBits_device : fixedBits 0x40000FB#64 = [0, 1, 3, 4, 5, 6, 7, 26] := by decide
theorem fixedBits_lo : fixedBits 0x4000080#64 = [7, 26] := by decide
theorem fixedBits_hi : fixedBits 0x40000C0#64 = [6, 7, 26] := by decide
theorem fixedBits_a0 : fixedBits 0x40000E0#64 = [5, 6, 7, 26] := by decide
theorem fixedBits_98 : fixedBits 0x40000F8#64 = [3, 4, 5, 6, 7, 26] := by decide
theorem fixedBits_inta : fixedBits 0x5000000#64 = [24, 26] := by decide
theorem fixedBits_reti : fixedBits 0x4000000000#64 = [38] := by decide

theorem matchesRow_inta_iff (p : Pins) (a : Addr) : MatchesRow p (.inta a) ↔ Bus.isInta p = true := by
  rw [matchesRow_iff, isInta_iff]
  simp only [tableRow, fixedBits_inta]
  exact Iff.rfl

theorem matchesRow_reti_iff (p : Pins) : MatchesRow p .reti ↔ Bus.reti p = true := by
  rw [matchesRow_iff]
  simp only [tableRow, fixedBits_reti]
  exact Iff.rfl

/-! ### A word matches the rows it decodes to -/

theorem matchesRow_decodeMem (p : Pins) : MatchesRow p (decodeMem p) := by
  rw [matchesRow_iff]
  unfold decodeMem
  cases hm : Bus.mreq p with
  | false =>
    simp only [tableRow, fixedBits_memNone]
    exact hm
  | true =>
    cases hr : Bus.rd p <;> cases hw : Bus.wr p
    all_goals
      simp only [tableRow, fixedBits_mem]
      exact ⟨hm, hr, hw⟩

/-- A signal of the device-decode bits. -/
theorem bit_of_aSel (p : Pins) (n : Nat) (hn : 3 ≤ n ∧ n < 8) : Bus.bit n p = (Bus.aSel p).getLsbD (n - 3) := by
  rw [Bus.aSel, Bus.getLsbD_field, Nat.add_sub_cancel' hn.1, decide_eq_true (show n - 3 < 5 by omega), Bool.true_and, Bus.bit]

/-- A signal of the register-select bits. -/
theorem bit_of_reg (p : Pins) (n : Nat) (hn : n < 2) : Bus.bit n p = (Bus.reg p).getLsbD n := by
  rw [Bus.reg, Bus.getLsbD_field, Nat.zero_add, decide_eq_true hn, Bool.true_and, Bus.bit]

/-- A word matches a device's row when its I/O request, its select and its register number are those of the row's match. -/
theorem matchesRow_device {p m : Pins} {i : Instr} (hrow : tableRow i = (m, 0x40000FB#64))
    (hio : Bus.iorq p = Bus.iorq m) (hsel : Bus.aSel p = Bus.aSel m) (hreg : Bus.reg p = Bus.reg m) : MatchesRow p i := by
  have hlow : ∀ n, n < 2 → Bus.bit n p = Bus.bit n m := fun n hn => by rw [bit_of_reg p n hn, bit_of_reg m n hn, hreg]
  have hhigh : ∀ n, 3 ≤ n ∧ n < 8 → Bus.bit n p = Bus.bit n m := fun n hn => by rw [bit_of_aSel p n hn, bit_of_aSel m n hn, hsel]
  have h26 : Bus.bit 26 p = Bus.bit 26 m := hio
  rw [matchesRow_iff, hrow, fixedBits_device]
  simp [hlow, hhigh, h26]

/-- Under the reference selects the unmapped ports with A7..A5 = 100 have A4 and A3 set (30_encoding R164). -/
theorem noDevice_98 : ∀ sel : BitVec 5, referenceParams.NoDevice sel → sel.getLsbD 4 = true → sel.getLsbD 3 = false →
    sel.getLsbD 2 = false → sel.getLsbD 1 = true ∧ sel.getLsbD 0 = true := by decide

theorem matchesRow_decodeUnmapped {p : Pins} (hio : Bus.iorq p = true) (hno : referenceParams.NoDevice (Bus.aSel p)) :
    MatchesRow p (decodeUnmapped p) := by
  have h98 := noDevice_98 _ hno
  rw [← bit_of_aSel p 7 (by omega), ← bit_of_aSel p 6 (by omega), ← bit_of_aSel p 5 (by omega), ← bit_of_aSel p 4 (by omega),
    ← bit_of_aSel p 3 (by omega)] at h98
  rw [matchesRow_iff]
  unfold decodeUnmapped
  cases h7 : Bus.bit 7 p with
  | false =>
    simp only [tableRow, fixedBits_lo]
    exact ⟨h7, hio⟩
  | true =>
    cases h6 : Bus.bit 6 p with
    | true =>
      simp only [tableRow, fixedBits_hi]
      exact ⟨h6, h7, hio⟩
    | false =>
      cases h5 : Bus.bit 5 p with
      | true =>
        simp only [tableRow, fixedBits_a0]
        exact ⟨h5, h6, h7, hio⟩
      | false =>
        obtain ⟨h4, h3⟩ := h98 h7 h6 h5
        simp only [tableRow, fixedBits_98]
        exact ⟨h3, h4, h5, h6, h7, hio⟩

theorem matchesRow_decodeIo (p : Pins) : MatchesRow p (decodeIo referenceParams p) := by
  refine decodeIo_cases (motive := MatchesRow p) (fun hio => ?_) ?_ ?_ ?_ matchesRow_decodeUnmapped
  · rw [matchesRow_iff]
    simp only [tableRow, fixedBits_ioNone]
    exact hio
  all_goals
    intro hio hsel
    apply decodeReg_cases
    all_goals exact fun hreg => matchesRow_device rfl (hio.trans (by decide)) (hsel.trans (by decide)) (hreg.trans (by decide))

/-! ### The rows of a group exclude each other -/

/-- The table's rows of the memory group. -/
def memTable : List (Pins × Pins) :=
  [Instr.memNone, .memRd 0#16, .memWr 0#16 0#8, .memNoacc 0#16, .memRdwr 0#16].map tableRow

/-- The table's rows of the I/O group. -/
def ioTable : List (Pins × Pins) :=
  [Instr.ioNone, .ctcCh0 0#8 false false, .ctcCh1 0#8 false false, .ctcCh2 0#8 false false, .ctcCh3 0#8 false false,
    .pio1DataA 0#8 false false, .pio1DataB 0#8 false false, .pio1CtrlA 0#8 false false, .pio1CtrlB 0#8 false false,
    .pio2DataA 0#8 false false, .pio2DataB 0#8 false false, .pio2CtrlA 0#8 false false, .pio2CtrlB 0#8 false false,
    .ioUnmappedLo 0#4 0#8 false false, .ioUnmappedHi 0#3 0#8 false false, .ioUnmappedA0 0#2 0#8 false false,
    .ioUnmapped98 0#2 0#8 false false].map tableRow

/-- The rows of a table exclude each other: some bit of both masks tells any two apart. -/
def RowsExclusive (table : List (Pins × Pins)) : Prop := table.Pairwise fun x y => x.1 &&& y.2 ≠ y.1 &&& x.2

theorem memTable_exclusive : RowsExclusive memTable := by unfold RowsExclusive; decide

theorem ioTable_exclusive : RowsExclusive ioTable := by unfold RowsExclusive; decide

/-- A word matches at most one row of a table whose rows exclude each other. -/
theorem RowsExclusive.eq_of_matchesRow {table : List (Pins × Pins)} (h : RowsExclusive table) {p : Pins} {i j : Instr}
    (hi : tableRow i ∈ table) (hj : tableRow j ∈ table) (hpi : MatchesRow p i) (hpj : MatchesRow p j) : tableRow i = tableRow j := by
  have hagree : (tableRow i).1 &&& (tableRow j).2 = (tableRow j).1 &&& (tableRow i).2 := by
    rw [← hpi, ← hpj, BitVec.and_assoc, BitVec.and_assoc, BitVec.and_comm (tableRow i).2]
  have : Std.Symm fun x y : Pins × Pins => x.1 &&& y.2 ≠ y.1 &&& x.2 := ⟨fun _ _ => Ne.symm⟩
  by_contra hne
  exact List.Pairwise.forall h hi hj hne hagree

theorem tableRow_decodeMem_mem (p : Pins) : tableRow (decodeMem p) ∈ memTable := by
  unfold decodeMem
  cases Bus.mreq p <;> cases Bus.rd p <;> cases Bus.wr p <;> simp [memTable, tableRow]

theorem tableRow_decodeUnmapped_mem (p : Pins) : tableRow (decodeUnmapped p) ∈ ioTable := by
  unfold decodeUnmapped
  cases Bus.bit 7 p <;> cases Bus.bit 6 p <;> cases Bus.bit 5 p <;> simp [ioTable, tableRow]

theorem tableRow_decodeIo_mem (P : Params) (p : Pins) : tableRow (decodeIo P p) ∈ ioTable := by
  refine decodeIo_cases (motive := (tableRow · ∈ ioTable)) (fun _ => ?_) ?_ ?_ ?_ fun _ _ => tableRow_decodeUnmapped_mem p
  · simp [ioTable, tableRow]
  all_goals
    intro _ _
    apply decodeReg_cases (motive := (tableRow · ∈ ioTable))
    all_goals exact fun _ => by simp [ioTable, tableRow]

/-- Settles O4: a word matches the rows it decodes to, and in the memory and the I/O group it matches no other. -/
theorem decodeAgreesWithTheTable : Obligations.DecodeAgreesWithTheTable := by
  intro p
  have hmem := matchesRow_decodeMem p
  have hio := matchesRow_decodeIo p
  refine ⟨hmem, hio, fun i h => ?_, fun i h => ?_, fun i h => ?_⟩
  · obtain ⟨hinta, rfl⟩ := decodeAck_eq_some.1 h
    exact (matchesRow_inta_iff p _).2 hinta
  · obtain ⟨hreti, rfl⟩ := decodeSig_eq_some.1 h
    exact (matchesRow_reti_iff p).2 hreti
  · cases i with
    | memNone | memRd a | memWr a d | memNoacc a | memRdwr a =>
      exact ⟨_, rfl, memTable_exclusive.eq_of_matchesRow (tableRow_decodeMem_mem p) (by simp [memTable, tableRow]) hmem h⟩
    | inta a => exact ⟨_, decodeAck_eq_some.2 ⟨(matchesRow_inta_iff p a).1 h, rfl⟩, rfl⟩
    | reti => exact ⟨_, decodeSig_eq_some.2 ⟨(matchesRow_reti_iff p).1 h, rfl⟩, rfl⟩
    | _ => exact ⟨_, rfl, ioTable_exclusive.eq_of_matchesRow (tableRow_decodeIo_mem _ p) (by simp [ioTable, tableRow]) hio h⟩

/-! ### The rows' effects -/

/-- The rows of the I/O, the acknowledge and the RETI group are no memory rows, and stand on their word. -/
theorem peripheralRow_standsOn {P : Params} {p : Pins} {i : Instr}
    (h : i = decodeIo P p ∨ decodeAck p = some i ∨ decodeSig p = some i) : isMemoryRow i = false ∧ StandsOn P p i := by
  obtain rfl | h | h := h
  · exact ⟨isMemoryRow_decodeIo P p, standsOn_decodeIo P p⟩
  · obtain ⟨-, rfl⟩ := decodeAck_eq_some.1 h
    exact ⟨rfl, standsOn_of_decodeAck P h⟩
  · obtain ⟨-, rfl⟩ := decodeSig_eq_some.1 h
    exact ⟨rfl, standsOn_of_decodeSig P h⟩

/-- Settles O6: each such row is presented and the peripheral phase runs, and presenting a row that stands on the word changes nothing. -/
theorem matchingPeripheralRowsAgree : Obligations.MatchingPeripheralRowsAgree := by
  intro s i h
  obtain ⟨hi, -, hself⟩ := peripheralRow_standsOn h
  rw [exec_peripheral i s hi, presentRow, hself]

/-- Settles O20: RETI stands on the presented word, and no stage before a device writes it. -/
theorem retiReachesEveryPeripheral : Obligations.RetiReachesEveryPeripheral := by
  intro s
  have hreti : Bus.bit 38 (presentRow .reti s).pins = true := present_reti_reti s.params s.pins
  refine ⟨_, exec_peripheral .reti s rfl, ?_, rfl, rfl, rfl⟩
  simp only [List.forall_mem_cons, List.not_mem_nil, false_implies, implies_true, and_true, Bus.reti]
  refine ⟨?_, ?_, ?_⟩
  · rw [bit_pio1Input 38 _ (by omega) (by omega), hreti]
  · rw [bit_pio2Word 38 _ _ (by omega) (by omega) (by omega) (by omega), hreti]
  · rw [bit_ctcWord 38 _ _ (by omega) (by omega) (by omega) (by omega), hreti]

/-- Settles O5: the decoder evaluates on the nine words. -/
theorem writtenOutWordsDecode : Obligations.WrittenOutWordsDecode := by
  unfold Obligations.WrittenOutWordsDecode
  decide

/-- Settles O45: past its last line the script's next word is its default, the word 0. -/
theorem scriptedCpuPresentsItsLines : Obligations.ScriptedCpuPresentsItsLines := by
  intro C s sc hcpu
  have hpins : (cpuPhase C s).pins = Bus.mask (sc.lines.getD sc.pos 0#64) := by rw [cpuPhase_pins, hcpu]; rfl
  refine ⟨hpins, fun hend => ?_, by rw [cpuPhase_cpu, hcpu]; rfl⟩
  rw [hpins, List.getD_eq_default _ _ hend]
  decide

end Sys2Proof
end

section
/-! One clock cycle (40_tick_engine): the memory rows of step 2, the Tick as the steps of R200, the audio step and the blink divider. -/

namespace Sys2Proof.Machine

/-! ### Step 2: the memory rows (R204 to R207) -/

/-- Settles O7: the decoder and the two rows by their cases. -/
theorem noAccessRowsChangeNothing : Obligations.NoAccessRowsChangeNothing := by
  refine ⟨fun s hm => ?_, fun s hm hr hw => ?_, fun _ => rfl, fun _ _ => rfl⟩
  · rw [decodeMem_eq, if_pos hm]
  · simp [decodeMem_eq, hm, hr, hw]

/-- Settles O8: the row sets the data field alone. -/
theorem memRdPutsTheMappedByteOnTheBus : Obligations.MemRdPutsTheMappedByteOnTheBus := by
  intro s a
  exact ⟨_, rfl, rfl, Bus.data_setData _ _, fun n hn hout => Bus.bit_setData_out n _ _ hn hout⟩

/-- A write through a writable binding stores behind that binding (20_memory R112). -/
theorem memWriteIndex_writable {s : State} {a : Addr} {b : Binding} (h : topBinding s.map a.toNat = some b)
    (hrw : b.readOnly = false) : memWriteIndex s a = some (Binding.indexOf b a.toNat) := by
  simp only [memWriteIndex, h, hrw, Bool.false_eq_true, if_false]

/-- Settles O10: the decoder finds the covering binding of the highest layer, and the map's write changes the one byte behind it. -/
theorem memWrStoresOneRamByte : Obligations.MemWrStoresOneRamByte := by
  intro s a d hwf hmap b hb hcov hmax hrw
  have hindex := memWriteIndex_writable (topBinding_eq (mapWf_layers hmap) hb hcov hmax) hrw
  refine ⟨memWrite s a d, exec_memWr a d s, rfl, ?_, fun k hk => ?_⟩
  · rw [cellRead_memWrite s a d hwf, hindex, Binding.indexOf, if_pos rfl]
  · exact cellRead_memWrite_other d (by rw [hindex]; simpa [Binding.indexOf] using hk.symm)

/-! ### Steps 2 to 5: the decoded rows are the phases of R200 -/

/-- The peripheral row a word decodes to stands on the word already, so running it is steps 3 to 5. -/
theorem exec_decodeBus (s : State) : exec (decodeBus s.params s.pins) s = .next (ioPhase s.params.chips s) := by
  obtain ⟨-, hself⟩ := standsOn_decodeBus s.params s.pins
  rw [exec_peripheral _ s (isMemoryRow_decodeBus _ _), presentRow, hself]

/-- Running a word's rows is step 2 and then steps 3 to 5. -/
theorem runRows_eq_phases (s : State) : runRows s = andThen (memPhase s) fun t => .next (ioPhase t.params.chips t) := by
  simp only [runRows_eq, exec_decodeMem_eq_memPhase, exec_decodeBus]

/-- Settles O38: the rows run are the phases of R200, and step 2 keeps the collaborators the later steps call. -/
theorem dispatchedTickIsTheTickOfTheSpec : Obligations.DispatchedTickIsTheTickOfTheSpec := by
  intro s
  rw [tick, tickWith, runRows_eq_phases, andThen_assoc]
  cases hmem : memPhase (cpuPhase s.params.chips s) with
  | next t => simp only [andThen_next, memPhase_params hmem, cpuPhase_params]
  | fault r => simp only [andThen_fault]
  | refused r => simp only [andThen_refused]

/-! ### The outcome of a Tick and of a step, by the cycle's bus word -/

section
variable {s : State}

/-- A Tick completes on a legal bus word (R230). -/
theorem tick_legal (h : cpuWordLegal (nextWord s) = true) : ∃ t, tick s = .next t := by
  obtain ⟨u, hmem⟩ := memPhase_legal (cpuPhase s.params.chips s) h
  exact ⟨_, by rw [dispatchedTickIsTheTickOfTheSpec s, tickWith, hmem, andThen_next]⟩

/-- A Tick on the illegal bus word ends in the fault that records it (R206). -/
theorem tick_illegal (h : cpuWordLegal (nextWord s) = false) : tick s = .fault (.busReadWriteBoth (nextWord s)) := by
  rw [dispatchedTickIsTheTickOfTheSpec s, tickWith, memPhase_illegal (cpuPhase s.params.chips s) h, andThen_fault, nextWord]

/-- The step of a valid instance is a Tick and the hook call. -/
theorem step_of_valid (hv : s.valid = true) : step s = andThen (tick s) fun t => .next (hookCall Config.stoppedDraw t) := by
  rw [step, stepCycle, if_pos hv, cycle]

end

/-- The illegal words are those with MREQ, RD and WR all set (30_encoding R167). -/
theorem cpuWordLegal_eq_false_iff (p : Pins) :
    cpuWordLegal p = false ↔ Bus.mreq p = true ∧ Bus.rd p = true ∧ Bus.wr p = true := by
  simp only [cpuWordLegal, Bool.not_eq_false', Bool.and_eq_true, and_assoc]

/-- Settles O39, by the check of the instance and then the legality of the cycle's bus word. -/
theorem stepCompletesOrFaultsByName : Obligations.StepCompletesOrFaultsByName := by
  intro s
  refine ⟨fun ⟨hv, hlegal⟩ => ?_, fun hv hillegal => ?_, fun hv => ?_⟩
  · obtain ⟨t, ht⟩ := tick_legal hlegal
    exact ⟨_, by rw [step_of_valid hv, ht, andThen_next]⟩
  · rw [step_of_valid hv, tick_illegal hillegal, andThen_fault]
  · simp only [step, stepCycle, hv, Bool.false_eq_true, if_false]

/-- Settles O13: a word with MREQ, RD and WR is the illegal one, on which step 2 and so the Tick fault; MEM_RDWR presents such a word. -/
theorem readAndWriteTogetherFaults : Obligations.ReadAndWriteTogetherFaults := by
  refine ⟨fun s hm hr hw => ⟨?_, ?_⟩, fun s a => ⟨present s.params (.memRdwr a) s.pins, rfl, ?_⟩, fun s hm hr hw => ?_, fun _ => rfl⟩
  · simp [decodeMem_eq, hm, hr, hw]
  · rw [exec_decodeMem_eq_memPhase]
    exact memPhase_illegal s ((cpuWordLegal_eq_false_iff _).2 ⟨hm, hr, hw⟩)
  · exact (cpuWordLegal_eq_false_iff _).2 ⟨presentMem_mreq _ _ a _, presentMem_rd _ _ a _, presentMem_wr _ _ a _⟩
  · exact tick_illegal ((cpuWordLegal_eq_false_iff _).2 ⟨hm, hr, hw⟩)

/-- Settles O37: the peripheral row decoded once for the cycle is the one decoded from the word step 2 leaves. -/
theorem stepRunsTheDecodedRows : Obligations.StepRunsTheDecodedRows := by
  intro s hv
  rw [step_of_valid hv, tick, runRows_eq, nextWord]
  refine ⟨fun s2 s3 hmem hperi => ?_, fun r hmem => ?_⟩
  · simp only [hmem, hperi, andThen_next]
  · simp only [hmem, andThen_fault]

/-! ### Step 6: the audio buffer (R220 to R222) -/

section
variable {s : State} {v : Sample}

/-- A sample that does not fill the buffer is appended, and the write position moves on (R221). -/
theorem audioPush_of_not_full (h : s.audioPos + 1 ≠ s.audioN) :
    audioPush s v = { s with audioBuf := audioAppend s v, audioPos := s.audioPos + 1 } := by
  simp only [audioPush, audioFull, h, decide_false, Bool.false_eq_true, if_false]

/-- A sample that fills the buffer delivers it and begins a new fill (R222). -/
theorem audioPush_of_full (h : s.audioPos + 1 = s.audioN) :
    audioPush s v = { s with
      audioBuf := [], audioPos := 0, audioFill := s.draws, draws := s.draws + 1
      events := s.events ++ [.audioBuffer (audioDelivery s v)] } := by
  simp only [audioPush, audioFull, h, decide_true, if_true]

/-- The entry at the write position is the sample appended. -/
theorem cellRead_audioAppend_pos (hwf : cellsWf (Config.audioUndef s.audioFill) s.audioBuf = true) :
    cellRead (Config.audioUndef s.audioFill) (audioAppend s v) s.audioPos = v :=
  cellRead_write_same _ _ hwf _ _

/-- An entry the fill has written stays when a sample is appended (10_state R67). -/
theorem cellRead_audioAppend_of_lt {i : Nat} (hi : i < s.audioPos) :
    cellRead (Config.audioUndef s.audioFill) (audioAppend s v) i = audioEntry s i :=
  cellRead_write_other _ _ _ _ _ hi.ne

/-- A delivery holds the configured count of samples. -/
theorem audioDelivery_length : (audioDelivery s v).length = s.audioN := by
  rw [audioDelivery, List.length_map, List.length_range]

/-- Sample `i` of a delivery is entry `i` of the buffer. -/
theorem audioDelivery_getElem? {i : Nat} (hi : i < s.audioN) :
    (audioDelivery s v)[i]? = some (cellRead (Config.audioUndef s.audioFill) (audioAppend s v) i) := by
  rw [audioDelivery, List.getElem?_map, List.getElem?_range hi, Option.map_some]

end

/-- Settles O34, by whether a sample came and whether it fills the buffer. -/
theorem audioSamplesAreAppendedAndDelivered : Obligations.AudioSamplesAreAppendedAndDelivered := by
  intro C s v hwf
  refine ⟨rfl, audioStep_none C s, fun hv hroom => ?_, fun hv hfull => ?_⟩
  · rw [audioStep_some C s v hv, audioPush_of_not_full hroom]
    exact ⟨rfl, cellRead_audioAppend_pos hwf, fun i hi => cellRead_audioAppend_of_lt hi, rfl⟩
  · rw [audioStep_some C s v hv, audioPush_of_full hfull]
    refine ⟨rfl, audioDelivery s v, rfl, audioDelivery_length, ?_, fun i hi => ?_⟩
    · rw [audioDelivery_getElem? (by omega), cellRead_audioAppend_pos hwf]
    · rw [audioDelivery_getElem? (by omega), cellRead_audioAppend_of_lt hi]

/-! ### Step 7: the blink divider (R226, R227) -/

section
variable {s : State}

/-- At 0 the counter reloads and bit 7 flips. -/
theorem blinkStep_of_zero (h : s.blinkCounter = 0#32) :
    (blinkStep s).blinkCounter = blinkReload s.params ∧ (blinkStep s).blinkFF = blinkFlip s.blinkFF := by
  rw [blinkStep_blinkCounter, blinkStep_blinkFF, if_pos h, if_pos h]
  exact ⟨rfl, rfl⟩

/-- Above 0 the counter decrements, with no wrap, and the flip-flop stays. -/
theorem blinkStep_of_ne_zero (h : s.blinkCounter ≠ 0#32) :
    (blinkStep s).blinkCounter.toNat = s.blinkCounter.toNat - 1 ∧ (blinkStep s).blinkFF = s.blinkFF := by
  rw [blinkStep_blinkCounter, blinkStep_blinkFF, if_neg h, if_neg h]
  exact ⟨by bv_omega, rfl⟩

end

/-- Settles O35, by whether the counter is at 0. -/
theorem blinkDividerReloadsAndFlips : Obligations.BlinkDividerReloadsAndFlips := by
  intro s
  obtain ⟨hflip, hlow, -⟩ := blinkFlip_bits s.blinkFF
  refine ⟨fun h => ?_, blinkStep_of_ne_zero, fun n hn => ?_⟩
  · obtain ⟨hcounter, hff⟩ := blinkStep_of_zero h
    exact ⟨hcounter, by rw [hff, blinkBit, hflip, blinkBit]⟩
  · rw [blinkStep_blinkFF]
    split
    · exact hlow n hn
    · rfl

/-- While the counter runs down, each blink step takes one off it and none flips bit 7. -/
theorem blinkStep_iterate_countdown (k : Nat) {s : State} (hk : k ≤ s.blinkCounter.toNat) :
    (blinkStep^[k] s).blinkCounter.toNat = s.blinkCounter.toNat - k ∧ (blinkStep^[k] s).blinkFF = s.blinkFF := by
  induction k generalizing s with
  | zero => exact ⟨rfl, rfl⟩
  | succ k ih =>
    have hne : s.blinkCounter ≠ 0#32 := by intro h; simp [h] at hk
    obtain ⟨hcounter, hff⟩ := blinkStep_of_ne_zero hne
    obtain ⟨hcounter', hff'⟩ := ih (s := blinkStep s) (by omega)
    rw [Function.iterate_succ_apply]
    exact ⟨by omega, hff'.trans hff⟩

/-- A reload value the 32-bit counter holds is loaded whole. -/
theorem blinkReload_toNat {P : Params} (h : P.clkHz / 25 < 2 ^ 32) : (blinkReload P).toNat = P.clkHz / 25 :=
  (BitVec.toNat_ofNat _ _).trans (Nat.mod_eq_of_lt h)

/-- Settles O36: the first step flips and reloads, BLINK_RELOAD steps count the reload value down to 0, and the next flips back. -/
theorem blinkFlipsEveryReloadPlusOneSteps : Obligations.BlinkFlipsEveryReloadPlusOneSteps := by
  intro s hzero hfits
  obtain ⟨hreload, hflip⟩ := blinkStep_of_zero hzero
  have hcount : (blinkStep s).blinkCounter.toNat = s.params.clkHz / 25 := by rw [hreload, blinkReload_toNat hfits]
  have hend : (blinkStep^[s.params.clkHz / 25 + 1] s).blinkCounter = 0#32 := by
    apply BitVec.eq_of_toNat_eq
    rw [Function.iterate_succ_apply, (blinkStep_iterate_countdown _ hcount.ge).1, hcount, Nat.sub_self, BitVec.toNat_zero]
  have hhold : ∀ k, k ≤ s.params.clkHz / 25 → (blinkStep^[k + 1] s).blinkFF = blinkFlip s.blinkFF := by
    intro k hk
    rw [Function.iterate_succ_apply, (blinkStep_iterate_countdown k (hk.trans hcount.ge)).2, hflip]
  refine ⟨hhold, hend, ?_⟩
  obtain ⟨-, -, hinvolutive⟩ := blinkFlip_bits s.blinkFF
  rw [Function.iterate_succ_apply', (blinkStep_of_zero hend).2, hhold _ le_rfl, hinvolutive]

end Sys2Proof.Machine
end

section
/-! The peripheral stages and the interrupt daisy chain (41_io_daisy_chain R250 to R281): how the chain threads enable and request, which
device a word selects, and what each row of the I/O group hands the three devices. -/

namespace Sys2Proof.Machine

/-! ### The stages, for every collaborator -/

/-- Settles O33: step 1 and each stage end with the mask, and the free byte of an unanswered cycle is a canonical field. -/
theorem everyStageReturnsCanonicalPins : Obligations.EveryStageReturnsCanonicalPins := fun C s =>
  ⟨Bus.canonical_mask _, pio1Stage_canonical C s, pio2Stage_canonical C s, ctcStage_canonical C s, ioPhase_canonical C s⟩

/-- Settles O24, link by link. -/
theorem daisyChainIsThreadedInPriorityOrder : Obligations.DaisyChainIsThreadedInPriorityOrder := fun C s =>
  ⟨ieio_pio1Input s, ieio_pio2Word C s, ieio_ctcWord C s, ieio_ioPhase C s⟩

/-- Controller #2 with its enable input 0 leaves the counter/timer's 0. -/
theorem ieio_ctcWord_of_blocked {C : Collaborators} {s : State} (h : Bus.ieio (pio2Word C s) = false) :
    Bus.ieio (ctcWord C s) = false := by
  rw [ieio_ctcWord, ieio_pioTick, h, Bool.false_and]

/-- The counter/timer with its enable input 0 leaves the returned enable 0. -/
theorem ieio_ioPhase_of_blocked {C : Collaborators} {s : State} (h : Bus.ieio (ctcWord C s) = false) :
    Bus.ieio (ioPhase C s).pins = false := by
  rw [ieio_ioPhase, ieio_ctcTick, h, Bool.false_and]

/-- Settles O25: a 0 is the next device's enable input, and a device that reads 0 hands 0 on. -/
theorem busyDeviceBlocksTheLaterOnes : Obligations.BusyDeviceBlocksTheLaterOnes := by
  intro C s
  constructor
  · intro h
    have hpio2 : Bus.ieio (pio2Word C s) = false := (ieio_pio2Word C s).trans h
    have hctc := ieio_ctcWord_of_blocked hpio2
    exact ⟨hpio2, hctc, ieio_ioPhase_of_blocked hctc⟩
  · intro h
    have hctc : Bus.ieio (ctcWord C s) = false := (ieio_ctcWord C s).trans h
    exact ⟨hctc, ieio_ioPhase_of_blocked hctc⟩

/-- Settles O27: each device adds its own request to the line. -/
theorem interruptRequestIsTheOrOfAll : Obligations.InterruptRequestIsTheOrOfAll := by
  intro C s
  rw [int_ioPhase, int_ctcWord]

/-! ### Chip-select (R250, R251, R256) -/

theorem selected_iff {sel : BitVec 5} {p : Pins} : selected sel p = true ↔ Bus.iorq p = true ∧ Bus.aSel p = sel := by
  rw [selected, Bool.and_eq_true, beq_iff_eq]

/-- One word does not select two devices. -/
theorem selected_exclusive {sel sel' : BitVec 5} (h : sel ≠ sel') (p : Pins) :
    ¬ (selected sel p = true ∧ selected sel' p = true) := by
  rw [selected_iff, selected_iff]
  rintro ⟨⟨-, hsel⟩, -, hsel'⟩
  exact h (hsel.symm.trans hsel')

/-- Without an I/O request no device is selected. -/
theorem selected_of_iorq_false (sel : BitVec 5) {p : Pins} (h : Bus.iorq p = false) : selected sel p = false := by
  rw [selected, h, Bool.false_and]

/-- Settles O28: each chip enable is the select condition of the word its stage begins with, and the stages pass IORQ and A7..A3, so
that all three test the cycle's one word. -/
theorem chipSelectIsExactAndExclusive : Obligations.ChipSelectIsExactAndExclusive := by
  intro C s hcanon
  refine ⟨?_, ?_, ?_, fun ⟨h12, h1c, h2c⟩ => ?_⟩
  · rw [ce_pio1Input s hcanon, selected_iff]
  · rw [ce_pio2Word_stage, selected_iff]
  · rw [ce_ctcWord_stage, selected_iff]
  · rw [ce_pio1Input s hcanon, ce_pio2Word, ce_ctcWord]
    exact ⟨selected_exclusive h12 _, selected_exclusive h1c _, selected_exclusive h2c _⟩

/-! ### The device-local inputs (R263, R270, R279) -/

/-- Above its three selects controller #1 reads 0 in every device-local signal (R263). -/
theorem bit_pio1Input_local {s : State} (h : Bus.Canonical s.pins) (n : Nat) (hlo : 43 ≤ n) (hhi : n < 64) :
    Bus.bit n (pio1Input s) = false := by
  rw [pio1Input, bit_withSelects_out n _ _ hhi (by omega)]
  exact bit_of_canonical n _ (chainHead_canonical _ h) (by omega)

/-- A port whose signals are all 0 reads 0. -/
theorem field_eq_zero {lo : Nat} {p : Pins} (h : ∀ n, lo ≤ n → n < lo + 8 → Bus.bit n p = false) : Bus.field lo 8 p = 0#8 := by
  rw [field_congr lo 8 p 0#64 fun n hlo hhi => (h n hlo hhi).trans BitVec.getLsbD_zero.symm, Bus.field, BitVec.extractLsb'_zero]

/-- Settles O29: the ports are fields of signals that are all 0. -/
theorem pio1PortInputsAreZero : Obligations.Pio1PortInputsAreZero := by
  intro s hcanon
  have hlocal := bit_pio1Input_local hcanon
  exact ⟨field_eq_zero fun n hlo hhi => hlocal n (by omega) (by omega), field_eq_zero fun n hlo hhi => hlocal n (by omega) (by omega),
    hlocal⟩

/-- The ports controller #2 is ticked with (R270). -/
theorem ports_pio2Word (C : Collaborators) (s : State) :
    Bus.portA (pio2Word C s) = ~~~ C.kbdScanColumns s.kbd ∧ Bus.portB (pio2Word C s) = ~~~ C.kbdScanLines s.kbd := by
  rw [pio2Word, pio2Input, Bus.setPorts, Bus.portA, Bus.portB, Bus.field_setField_other 48 8 56 _ _ (by omega) (by omega),
    Bus.field_setField_same 48 _ _ (by omega), Bus.field_setField_same 56 _ _ (by omega), pio1Stage_kbd]
  exact ⟨rfl, rfl⟩

/-- The keyboard after the peripheral phase: fed back from the word controller #2 leaves (R271). -/
theorem ioPhase_kbd (C : Collaborators) (s : State) :
    (ioPhase C s).kbd = kbdFeedback C s.kbd (pioDrive (C.pioTick s.pio2 (pio2Word C s)) (pio2Word C s)) := rfl

/-- Settles O30: the scan stands on the ports, and the port outputs feed the keyboard. -/
theorem keyboardLoopThroughController2 : Obligations.KeyboardLoopThroughController2 := by
  intro C s
  obtain ⟨hA, hB⟩ := ports_pio2Word C s
  exact ⟨hA, hB, by rw [ioPhase_kbd, kbdFeedback, portA_pioDrive, portB_pioDrive]⟩

/-! ### The cascade latch and the audio toggle (R274, R279, R281) -/

/-- The clock/trigger inputs the counter/timer is ticked with: the latch on the destination channel alone. -/
theorem clktrg_ctcWord (C : Collaborators) (s : State) (k : Nat) (hk : k < 4) :
    Bus.clktrg k (ctcWord C s) = if k = s.params.cascadeDst then s.ctcCascade else false := by
  rw [Bus.clktrg, ctcWord, ctcInput, bit_withSelects_out _ _ _ (by omega) (by omega), pio2Stage_params, pio1Stage_params,
    pio2Stage_ctcCascade, pio1Stage_ctcCascade, Bus.setClktrg]
  split
  next hdst => rw [hdst, Bus.bit_setBit_same _ (by omega)]
  next hother =>
    rw [Bus.bit_setBit_other _ _ (by omega) _ _ (by omega)]
    exact bit_of_canonical _ _ (pio2Stage_canonical C _) (by omega)

/-- The latch after the peripheral phase is the source channel's terminal count. -/
theorem ioPhase_ctcCascade (C : Collaborators) (s : State) :
    (ioPhase C s).ctcCascade = Bus.zcto s.params.cascadeSrc (ctcDrive (C.ctcTick s.ctc (ctcWord C s)) (ctcWord C s)) := rfl

/-- The generator after the peripheral phase: toggled by the audio channel's terminal count. -/
theorem ioPhase_beeper (C : Collaborators) (s : State) :
    (ioPhase C s).beeper = if Bus.zcto s.params.audioCh (ctcDrive (C.ctcTick s.ctc (ctcWord C s)) (ctcWord C s))
      then C.beeperToggle s.beeper else s.beeper := rfl

/-- Settles O31: the latch drives the destination channel in this Tick and captures the source channel after it. -/
theorem cascadeLatchDelaysOneTick : Obligations.CascadeLatchDelaysOneTick := by
  intro C s hcascade
  have hsrc : s.params.cascadeSrc ≤ 2 := by
    rw [cascadeOk, Bool.and_eq_true, decide_eq_true_eq] at hcascade
    exact hcascade.1
  exact ⟨clktrg_ctcWord C s, by rw [ioPhase_ctcCascade, zcto_ctcDrive _ hsrc]⟩

/-- Settles O32: step 5 toggles the generator, and step 6 ticks what it leaves. -/
theorem terminalCountTogglesTheAudioGenerator : Obligations.TerminalCountTogglesTheAudioGenerator := by
  intro C s hch
  exact ⟨by rw [ioPhase_beeper, zcto_ctcDrive _ hch], rfl⟩

/-! ### The rows of the I/O group on the bus word -/

/-- The word asks for an I/O cycle: the device-decode bits, the data, the strobes and the M1 signal it carries. -/
structure IoRequest (sel : BitVec 5) (d : Byte) (rd wr m1 : Bool) (p : Pins) : Prop where
  iorq : Bus.iorq p = true
  select : Bus.aSel p = sel
  data : Bus.data p = d
  read : Bus.rd p = rd
  write : Bus.wr p = wr
  m1 : Bus.m1 p = m1

/-- A device's row presented on a word asks for its cycle and leaves M1. -/
theorem ioRequest_presentIo (sel : BitVec 5) (reg : BitVec 2) (d : Byte) (rd wr : Bool) (p : Pins) :
    IoRequest sel d rd wr (Bus.m1 p) (presentIo sel reg d rd wr p) where
  iorq := presentIo_iorq ..
  select := presentIo_aSel ..
  data := presentIo_data ..
  read := presentIo_rd ..
  write := presentIo_wr ..
  m1 := presentIo_m1 ..

theorem presentUnmapped_m1 (sel : BitVec 5) (d : Byte) (rd wr : Bool) (p : Pins) :
    Bus.m1 (presentUnmapped sel d rd wr p) = Bus.m1 p := by
  simp [presentUnmapped, Bus.m1, Bus.setData, Bus.bit_setBit_other, Bus.bit_setField_out]

/-- So does an unmapped row. -/
theorem ioRequest_presentUnmapped (sel : BitVec 5) (d : Byte) (rd wr : Bool) (p : Pins) :
    IoRequest sel d rd wr (Bus.m1 p) (presentUnmapped sel d rd wr p) where
  iorq := presentUnmapped_iorq ..
  select := presentUnmapped_aSel ..
  data := presentUnmapped_data ..
  read := presentUnmapped_rd ..
  write := presentUnmapped_wr ..
  m1 := presentUnmapped_m1 ..

/-! ### What the devices see of an I/O request -/

/-- Outside an acknowledge a controller that is not selected drives no data. -/
theorem pioData_unselected (r : PioReply) {p : Pins} (hce : Bus.ce p = false) (hm1 : Bus.m1 p = false) : pioData r p = none :=
  pioData_none r p (registerRead_unselected p hce) (by rw [Bus.isInta, hm1, Bool.false_and])

section
variable {s : State} {sel : BitVec 5} {d : Byte} {rd wr m1 : Bool} (h : IoRequest sel d rd wr m1 s.pins)
include h

theorem IoRequest.selected (sel' : BitVec 5) : selected sel' s.pins = (sel == sel') := by
  rw [Machine.selected, h.iorq, h.select, Bool.true_and]

/-- Controller #1 sees its chip enable when the request is for it. -/
theorem IoRequest.ce_pio1Input (hcanon : Bus.Canonical s.pins) : Bus.ce (pio1Input s) = (sel == s.params.pio1Sel) := by
  rw [Machine.ce_pio1Input s hcanon, h.selected]

/-- Controller #2 sees its chip enable when the request is for it. -/
theorem IoRequest.ce_pio2Word (C : Collaborators) : Bus.ce (pio2Word C s) = (sel == s.params.pio2Sel) := by
  rw [Machine.ce_pio2Word, h.selected]

/-- The counter/timer sees its chip enable when the request is for it. -/
theorem IoRequest.ce_ctcWord (C : Collaborators) : Bus.ce (ctcWord C s) = (sel == s.params.ctcSel) := by
  rw [Machine.ce_ctcWord, h.selected]

/-- The strobes reach controller #1. -/
theorem IoRequest.strobes_pio1Input : Bus.rd (pio1Input s) = rd ∧ Bus.wr (pio1Input s) = wr :=
  ⟨(bit_pio1Input 27 s (by omega) (by omega)).trans h.read, (bit_pio1Input 28 s (by omega) (by omega)).trans h.write⟩

/-- The strobes reach controller #2. -/
theorem IoRequest.strobes_pio2Word (C : Collaborators) : Bus.rd (pio2Word C s) = rd ∧ Bus.wr (pio2Word C s) = wr :=
  ⟨(bit_pio2Word 27 C s (by omega) (by omega) (by omega) (by omega)).trans h.read,
    (bit_pio2Word 28 C s (by omega) (by omega) (by omega) (by omega)).trans h.write⟩

/-- The strobes reach the counter/timer. -/
theorem IoRequest.strobes_ctcWord (C : Collaborators) : Bus.rd (ctcWord C s) = rd ∧ Bus.wr (ctcWord C s) = wr :=
  ⟨(bit_ctcWord 27 C s (by omega) (by omega) (by omega) (by omega)).trans h.read,
    (bit_ctcWord 28 C s (by omega) (by omega) (by omega) (by omega)).trans h.write⟩

/-- The request's data reaches controller #2 unless controller #1 drives the field. -/
theorem IoRequest.data_pio2Word (C : Collaborators) :
    Bus.data (pio2Word C s) = (pioData (C.pioTick s.pio1 (pio1Input s)) (pio1Input s)).getD d := by
  rw [Machine.data_pio2Word, h.data]

/-- The request's data reaches the counter/timer unless a controller drives the field. -/
theorem IoRequest.data_ctcWord (C : Collaborators) : Bus.data (ctcWord C s) =
    (pioData (C.pioTick s.pio2 (pio2Word C s)) (pio2Word C s)).getD
      ((pioData (C.pioTick s.pio1 (pio1Input s)) (pio1Input s)).getD d) := by
  rw [Machine.data_ctcWord, h.data]

/-- Outside an acknowledge controller #1, not selected, leaves the data to controller #2. -/
theorem IoRequest.data_pio2Word_of_unselected (C : Collaborators) (hce1 : Bus.ce (pio1Input s) = false) (hm1 : m1 = false) :
    Bus.data (pio2Word C s) = d := by
  have hm1' : Bus.m1 (pio1Input s) = false := (bit_pio1Input 24 s (by omega) (by omega)).trans (h.m1.trans hm1)
  rw [h.data_pio2Word, pioData_unselected _ hce1 hm1', Option.getD_none]

/-- Outside an acknowledge the controllers, not selected, leave the data to the counter/timer. -/
theorem IoRequest.data_ctcWord_of_unselected (C : Collaborators) (hce1 : Bus.ce (pio1Input s) = false)
    (hce2 : Bus.ce (pio2Word C s) = false) (hm1 : m1 = false) : Bus.data (ctcWord C s) = d := by
  have hm1' : Bus.m1 (pio2Word C s) = false :=
    (bit_pio2Word 24 C s (by omega) (by omega) (by omega) (by omega)).trans (h.m1.trans hm1)
  rw [h.data_ctcWord, pioData_unselected _ hce2 hm1', Option.getD_none, ← h.data_pio2Word, h.data_pio2Word_of_unselected C hce1 hm1]

/-- An I/O read and an acknowledge ask for data, which floats when no device answers (R280, 60_exceptions R414). -/
theorem IoRequest.dataFloats (C : Collaborators) : dataFloats C s = ((rd || m1) && !dataAnswered C s) := by
  rw [Machine.dataFloats, dataWanted, Bus.isInta, h.iorq, h.m1, h.read, Bool.and_true, Bool.true_and, Bool.or_comm]

/-- What the peripheral phase leaves on the bus for an I/O request. -/
theorem IoRequest.leavesBus :
    LeavesBus s (ioPhase s.params.chips s) ((rd || m1) && !dataAnswered s.params.chips s) := by
  rw [← h.dataFloats]
  exact ⟨rfl, rfl⟩

end

/-! ### The device rows -/

/-- A row's I/O request as a device meets it: the row runs the peripheral phase on a word that asks for the cycle, with the register bits
A0 and A1. -/
structure DeviceRow (s : State) (sel : BitVec 5) (d : Byte) (rd wr a0 a1 : Bool) (i : Instr) : Prop where
  completes : exec i s = .next (ioPhase s.params.chips (presentRow i s))
  request : IoRequest sel d rd wr (Bus.m1 s.pins) (presentRow i s).pins
  a0 : Bus.a0 (presentRow i s).pins = a0
  a1 : Bus.a1 (presentRow i s).pins = a1

/-- A row outside the memory group that is presented with a register number is a device row. -/
theorem deviceRow_of_present {s : State} {sel : BitVec 5} {d : Byte} {rd wr : Bool} {i : Instr} (reg : BitVec 2)
    (hperi : isMemoryRow i = false) (hpresent : present s.params i s.pins = presentIo sel reg d rd wr s.pins) :
    DeviceRow s sel d rd wr (reg.getLsbD 0) (reg.getLsbD 1) i where
  completes := exec_peripheral i s hperi
  request := by rw [presentRow_pins, hpresent]; exact ioRequest_presentIo ..
  a0 := by rw [presentRow_pins, hpresent, presentIo_a0]
  a1 := by rw [presentRow_pins, hpresent, presentIo_a1]

/-- The four rows of a device, each listed with its A0 and A1. -/
theorem deviceRow_of_mem {s : State} {sel : BitVec 5} {d : Byte} {rd wr : Bool} {i0 i1 i2 i3 : Instr}
    (h0 : DeviceRow s sel d rd wr false false i0) (h1 : DeviceRow s sel d rd wr true false i1)
    (h2 : DeviceRow s sel d rd wr false true i2) (h3 : DeviceRow s sel d rd wr true true i3) {row : Instr × Bool × Bool}
    (hrow : row ∈ [(i0, false, false), (i1, true, false), (i2, false, true), (i3, true, true)]) :
    DeviceRow s sel d rd wr row.2.1 row.2.2 row.1 := by
  simp only [List.mem_cons, List.not_mem_nil, or_false] at hrow
  obtain rfl | rfl | rfl | rfl := hrow
  exacts [h0, h1, h2, h3]

/-- Settles O14: a request for the counter/timer's select, which is no controller's. -/
theorem ctcRowsSelectTheirChannel : Obligations.CtcRowsSelectTheirChannel := by
  rintro s d rd wr ⟨-, h1c, h2c⟩ hcanon row hrow
  obtain ⟨hcompletes, hreq, ha0, ha1⟩ : DeviceRow s s.params.ctcSel d rd wr row.2.1 row.2.2 row.1 :=
    deviceRow_of_mem (deviceRow_of_present 0#2 rfl rfl) (deviceRow_of_present 1#2 rfl rfl) (deviceRow_of_present 2#2 rfl rfl)
      (deviceRow_of_present 3#2 rfl rfl) hrow
  obtain ⟨hcs0, hcs1⟩ := selects_ctcWord s.params.chips (presentRow row.1 s)
  obtain ⟨hrd, hwr⟩ := hreq.strobes_ctcWord s.params.chips
  have hce1 := (hreq.ce_pio1Input (present_canonical s.params row.1 s.pins hcanon)).trans (beq_false_of_ne h1c.symm)
  have hce2 := (hreq.ce_pio2Word s.params.chips).trans (beq_false_of_ne h2c.symm)
  have hcec := (hreq.ce_ctcWord s.params.chips).trans (beq_self_eq_true _)
  exact ⟨_, hcompletes, rfl, hcec, hcs0.trans ha0, hcs1.trans ha1, hrd, hwr, hreq.data_ctcWord _,
    hreq.data_ctcWord_of_unselected _ hce1 hce2, hce1, hce2, hreq.leavesBus⟩

/-- Settles O15: a request for controller #1's select, which is no later device's. -/
theorem pio1RowsSelectTheirRegister : Obligations.Pio1RowsSelectTheirRegister := by
  rintro s d rd wr ⟨h12, h1c, -⟩ hcanon row hrow
  obtain ⟨hcompletes, hreq, ha0, ha1⟩ : DeviceRow s s.params.pio1Sel d rd wr row.2.1 row.2.2 row.1 :=
    deviceRow_of_mem (deviceRow_of_present 0#2 rfl rfl) (deviceRow_of_present 1#2 rfl rfl) (deviceRow_of_present 2#2 rfl rfl)
      (deviceRow_of_present 3#2 rfl rfl) hrow
  obtain ⟨hbasel, hcdsel⟩ := selects_pio1Input (presentRow row.1 s)
  obtain ⟨hrd, hwr⟩ := hreq.strobes_pio1Input
  have hce1 := (hreq.ce_pio1Input (present_canonical s.params row.1 s.pins hcanon)).trans (beq_self_eq_true _)
  have hce2 := (hreq.ce_pio2Word s.params.chips).trans (beq_false_of_ne h12)
  have hcec := (hreq.ce_ctcWord s.params.chips).trans (beq_false_of_ne h1c)
  exact ⟨_, hcompletes, rfl, hce1, hbasel.trans ha0, hcdsel.trans ha1, (data_pio1Input _).trans hreq.data, hrd, hwr,
    ieio_pio1Input _, hce2, hcec, hreq.leavesBus⟩

/-- Settles O16: a request for controller #2's select, which is no other device's. -/
theorem pio2RowsSelectTheirRegister : Obligations.Pio2RowsSelectTheirRegister := by
  rintro s d rd wr ⟨h12, -, h2c⟩ hcanon row hrow
  obtain ⟨hcompletes, hreq, ha0, ha1⟩ : DeviceRow s s.params.pio2Sel d rd wr row.2.1 row.2.2 row.1 :=
    deviceRow_of_mem (deviceRow_of_present 0#2 rfl rfl) (deviceRow_of_present 1#2 rfl rfl) (deviceRow_of_present 2#2 rfl rfl)
      (deviceRow_of_present 3#2 rfl rfl) hrow
  obtain ⟨hbasel, hcdsel⟩ := selects_pio2Word s.params.chips (presentRow row.1 s)
  obtain ⟨hportA, hportB⟩ := ports_pio2Word s.params.chips (presentRow row.1 s)
  obtain ⟨hrd, hwr⟩ := hreq.strobes_pio2Word s.params.chips
  have hce1 := (hreq.ce_pio1Input (present_canonical s.params row.1 s.pins hcanon)).trans (beq_false_of_ne h12.symm)
  have hce2 := (hreq.ce_pio2Word s.params.chips).trans (beq_self_eq_true _)
  have hcec := (hreq.ce_ctcWord s.params.chips).trans (beq_false_of_ne h2c)
  exact ⟨_, hcompletes, rfl, hce2, hbasel.trans ha0, hcdsel.trans ha1, hrd, hwr, hreq.data_pio2Word _,
    hreq.data_pio2Word_of_unselected _ hce1, hportA, hportB, hce1, hcec, hreq.leavesBus⟩

/-! ### The rows that select no device -/

/-- Settles O17: without IORQ no word selects a device, and every stage ticks its own. -/
theorem ioNoneTicksEveryDeviceUnselected : Obligations.IoNoneTicksEveryDeviceUnselected := by
  intro s hcanon
  have hiorq : Bus.iorq (presentRow .ioNone s).pins = false := Bus.bit_setBit_same 26 (by omega) false s.pins
  have hnone := fun sel => selected_of_iorq_false sel hiorq
  exact ⟨_, exec_peripheral .ioNone s rfl, (ce_pio1Input _ (present_canonical _ _ _ hcanon)).trans (hnone _),
    (ce_pio2Word _ _).trans (hnone _), (ce_ctcWord _ _).trans (hnone _), rfl, rfl, rfl⟩

/-- Settles O18: a request for a select that is no device's. -/
theorem unmappedPortsSelectNobody : Obligations.UnmappedPortsSelectNobody := by
  intro s lo hi l2 d rd wr hcanon i hrow hwf
  obtain ⟨sel, hperi, hsel, hpresent⟩ : ∃ sel, isMemoryRow i = false ∧ i.unmappedSel = some sel ∧
      present s.params i s.pins = presentUnmapped sel d rd wr s.pins := by
    simp only [List.mem_cons, List.not_mem_nil, or_false] at hrow
    obtain rfl | rfl | rfl | rfl := hrow <;> exact ⟨_, rfl, rfl, rfl⟩
  obtain ⟨h1, h2, hc⟩ := noDevice_of_wellFormed hwf hsel
  have hreq : IoRequest sel d rd wr (Bus.m1 s.pins) (presentRow i s).pins := by
    rw [presentRow_pins, hpresent]
    exact ioRequest_presentUnmapped ..
  have hce1 := (hreq.ce_pio1Input (present_canonical s.params i s.pins hcanon)).trans (beq_false_of_ne h1)
  have hce2 := (hreq.ce_pio2Word s.params.chips).trans (beq_false_of_ne h2)
  have hcec := (hreq.ce_ctcWord s.params.chips).trans (beq_false_of_ne hc)
  obtain ⟨hpins, hdraws⟩ := hreq.leavesBus
  refine ⟨_, exec_peripheral i s hperi, hce1, hce2, hcec, rfl, rfl, rfl, fun hrd => ?_, fun hrd hm1 => ?_, by simp⟩
  · simp only [hrd, Bool.true_or, Bool.true_and, Bool.not_eq_true', ← Bool.not_eq_true, ite_not] at hpins hdraws
    exact ⟨hpins, hdraws⟩
  · rw [hrd, hm1] at hpins hdraws
    exact ⟨hpins, hdraws⟩

end Sys2Proof.Machine
end

section
/-! The video decode (42_video_pipeline R300 to R312): every framebuffer byte is a visible pixel's, which the decode writes with that
pixel's colour, or a padding byte, which it leaves. Both obligations follow from these two readings of the decoded framebuffer. -/

namespace Sys2Proof.Machine

variable {s t : State}

/-! ### What a framebuffer byte holds after a decode -/

/-- Every byte in the first 320 of a framebuffer line is a pixel of some cell (R308). -/
theorem exists_pixelIndex {i : Nat} (hcol : i % 512 < 320) (hrow : i < 98304) :
    ∃ r py c k, r < 24 ∧ py < 8 ∧ c < 40 ∧ k < 8 ∧ i = pixelIndex r py c k :=
  ⟨i / 4096, i / 512 % 8, i % 512 / 8, i % 8, by omega, by omega, by omega, by omega, by rw [pixelIndex]; omega⟩

/-- A pixel's byte lies in the first 320 of a framebuffer line (R308). -/
theorem pixelIndex_visible {r py c k : Nat} (hr : r < 24) (hpy : py < 8) (hc : c < 40) (hk : k < 8) :
    pixelIndex r py c k % 512 < 320 ∧ pixelIndex r py c k < 98304 := by
  unfold pixelIndex; omega

/-- A visible position holds its pixel's colour: it is written, and by no other pixel. -/
theorem fbRead_videoDecode_pixel (hwf : cellsWf fbBg s.fb = true) {r py c k : Nat} (hr : r < 24) (hpy : py < 8) (hc : c < 40)
    (hk : k < 8) : fbRead (videoDecode s) (pixelIndex r py c k) = pixelAt s r py c k := by
  rw [fbRead_videoDecode]
  refine cellRead_writeAll_const fbBg _ _ hwf _ _ (fun w hw heq => ?_)
    (.inl ⟨_, (mem_pixelWrites s _).2 ⟨r, py, c, k, hr, hpy, hc, hk, rfl⟩, rfl⟩)
  obtain ⟨r', py', c', k', -, hpy', hc', hk', rfl⟩ := (mem_pixelWrites s w).1 hw
  obtain ⟨rfl, rfl, rfl, rfl⟩ := pixelIndex_inj hpy' hc' hk' hpy hc hk heq
  rfl

/-- A position right of the picture or past the framebuffer keeps its byte (R309). -/
theorem fbRead_videoDecode_padding (s : State) {i : Nat} (h : 320 ≤ i % 512 ∨ 98304 ≤ i) : fbRead (videoDecode s) i = fbRead s i := by
  rw [fbRead_videoDecode, fbRead_eq]
  refine cellRead_writeAll_other fbBg _ _ _ fun w hw heq => ?_
  obtain ⟨r, py, c, k, hr, hpy, hc, hk, rfl⟩ := (mem_pixelWrites s w).1 hw
  obtain ⟨hcol, hrow⟩ := pixelIndex_visible hr hpy hc hk
  change pixelIndex r py c k = i at heq
  omega

/-- A second decode paints the pixels of the first over themselves (R311). -/
theorem decodedFb_videoDecode (hwf : cellsWf fbBg s.fb = true) : decodedFb (videoDecode s) = decodedFb s := by
  have hwf' : cellsWf fbBg (videoDecode s).fb = true := by rw [videoDecode_fb]; exact decodedFb_wf s hwf
  refine cells_ext fbBg _ _ (decodedFb_wf _ hwf') (decodedFb_wf s hwf) fun i => ?_
  rw [← videoDecode_fb, ← videoDecode_fb, ← fbRead_eq, ← fbRead_eq]
  by_cases hvisible : i % 512 < 320 ∧ i < 98304
  · obtain ⟨r, py, c, k, hr, hpy, hc, hk, rfl⟩ := exists_pixelIndex hvisible.1 hvisible.2
    rw [fbRead_videoDecode_pixel hwf' hr hpy hc hk, fbRead_videoDecode_pixel hwf hr hpy hc hk, videoDecode_eq, pixelAt_withFb]
  · exact fbRead_videoDecode_padding _ (by omega)

/-- Of two framebuffers put in place the second stays. -/
theorem withFb_withFb (s : State) (fb fb' : List Host.Cell) : withFb (withFb s fb) fb' = withFb s fb' := rfl

/-- A decode sets the framebuffer alone (R307). -/
theorem videoDecode_frame (s : State) : videoDecode s = { s with fb := (videoDecode s).fb } := by
  rw [videoDecode_fb, videoDecode_eq, withFb]

/-! ### What a pixel's colour reads -/

/-- The colour variant takes a cell's colours from its attribute byte (R303, R304). -/
theorem cellColours_color (h : s.variant = .color) (r c : Nat) :
    cellColours s r c = attrColours (blinkBit s.blinkFF) (attrByte s r c) := by
  rw [cellColours, h]

/-- The monochrome variant has one pair of colours (R306). -/
theorem cellColours_mono (h : s.variant = .mono) (r c : Nat) : cellColours s r c = (s.params.monoFg, s.params.monoBg) := by
  rw [cellColours, h]

/-- Two cells with one attribute byte have the same colours in states that agree on variant, parameters and blink bit. -/
theorem cellColours_congr {r c : Nat} (hvariant : s.variant = t.variant) (hparams : s.params = t.params)
    (hblink : blinkBit s.blinkFF = blinkBit t.blinkFF) (hattr : attrByte s r c = attrByte t r c) :
    cellColours s r c = cellColours t r c := by
  rw [cellColours, cellColours, hvariant, hparams, hblink, hattr]

/-- Two states with the same glyph row and colours of a cell paint the same pixel there. -/
theorem pixelAt_congr {r py c k : Nat} (hfont : s.font = t.font) (hchar : charCode s r c = charCode t r c)
    (hcolours : cellColours s r c = cellColours t r c) : pixelAt s r py c k = pixelAt t r py c k := by
  rw [pixelAt, pixelAt, glyphRow, glyphRow, hfont, hchar, hcolours]

/-! ### The two obligations -/

/-- Settles O46: a visible byte is its pixel's, a padding byte is left, and the decode sets the framebuffer alone. -/
theorem videoDecodePaintsEveryVisiblePixel : Obligations.VideoDecodePaintsEveryVisiblePixel := by
  intro s hwf
  refine ⟨fun r py c k hr hpy hc hk => ?_, fun i hi => fbRead_videoDecode_padding s hi, videoDecode_frame s⟩
  rw [pixelIndex_eq, fbRead_videoDecode_pixel hwf hr hpy hc hk, pixelAt, expandPixel]
  cases hvariant : s.variant
  case color => rw [cellColours_color hvariant, attrColours_fst, attrColours_snd]; rfl
  case mono => rw [cellColours_mono hvariant]; rfl

/-- Settles O47: the second decode writes the framebuffer of the first, and a pixel is a function of the cell's two bytes, the font, the
blink bit and the variant. -/
theorem videoDecodeIsIdempotentAndDetermined : Obligations.VideoDecodeIsIdempotentAndDetermined := by
  constructor
  · intro s hwf
    rw [videoDecode_eq (videoDecode s), decodedFb_videoDecode hwf, videoDecode_eq s, withFb_withFb]
  · intro s t hs ht hvariant hparams hblink hfont hvram haram x y hx hy
    obtain ⟨r, py, c, k, hr, hpy, hc, hk, hindex⟩ := exists_pixelIndex (i := 512 * y + x) (by omega) (by omega)
    rw [hindex, fbRead_videoDecode_pixel hs hr hpy hc hk, fbRead_videoDecode_pixel ht hr hpy hc hk]
    have hcell : 40 * r + c < 960 := by omega
    have hchar : charCode s r c = charCode t r c := by simpa only [charCode, Nat.add_assoc] using hvram _ hcell
    have hattr : attrByte s r c = attrByte t r c := by simpa only [attrByte, Nat.add_assoc] using haram _ hcell
    exact pixelAt_congr hfont hchar (cellColours_congr hvariant hparams hblink hattr)

end Sys2Proof.Machine
end

section
/-! The execution driver and the other host operations (43_execution_driver R350 to R363). Without a hook the loop of Execute is `ticks`,
which fixes what one call runs; a conservation law over a sequence of calls then says that no millionth of a cycle is lost. -/

namespace Sys2Proof.Machine

variable {s t : State} {draw : Nat → Bool}

/-! ### The debug hook (R356) -/

/-- A cycle whose Tick completes is that Tick and the hook call. -/
theorem cycle_of_tick (h : tick s = .next t) : cycle draw s = .next (hookCall draw t) := by
  rw [cycle, h, andThen_next]

/-- With a hook the call is recorded with the pins, the flag is the host's draw, and the draw is used up. -/
theorem hookCall_some {h : Hook} (hh : s.hook = some h) : hookCall draw s = { s with
    events := s.events ++ [.debugHook s.pins], hook := some { h with stopped := draw s.draws }, draws := s.draws + 1 } := by
  simp only [hookCall, hh, Option.isSome_some, if_true, Option.map_some]

/-- Settles O44, by whether the state after the Tick has a hook. -/
theorem debugHookIsCalledOncePerCycle : Obligations.DebugHookIsCalledOncePerCycle := by
  intro draw s t htick
  refine ⟨fun h hh => ⟨_, cycle_of_tick htick, ?_⟩, fun hnone => ?_⟩
  · rw [hookCall_some hh]
    exact ⟨rfl, rfl, rfl⟩
  · rw [cycle_of_tick htick, hookCall_none draw t hnone]

/-! ### The loop without a hook (R352) -/

/-- What a slice is computed from: no Tick changes the parameters, the remainder or the hook. -/
theorem tick_keeps_slice (h : tick s = .next t) : t.params = s.params ∧ t.clkRem = s.clkRem ∧ t.hook = s.hook := by
  obtain ⟨-, -, -, -, -, hparams, hrem, hhook, -⟩ := noBusCycleReachesTheConfiguration s t h
  exact ⟨hparams, hrem, hhook⟩

/-- Nor does any number of Ticks. -/
theorem ticks_keeps_slice {k : Nat} (h : ticks k s = .next t) : t.params = s.params ∧ t.clkRem = s.clkRem ∧ t.hook = s.hook := by
  induction k generalizing s with
  | zero => cases h; exact ⟨rfl, rfl, rfl⟩
  | succ k ih =>
    obtain ⟨u, htick, hticks⟩ := andThen_completes h
    obtain ⟨hparams, hrem, hhook⟩ := tick_keeps_slice htick
    obtain ⟨hparams', hrem', hhook'⟩ := ih hticks
    exact ⟨hparams'.trans hparams, hrem'.trans hrem, hhook'.trans hhook⟩

/-- Without a hook nothing says stop. -/
theorem hookStopped_of_no_hook (hs : s.hook = none) : hookStopped s = false := by
  rw [hookStopped, hs]

/-- Without a hook a cycle that completes is a Tick. -/
theorem tick_of_cycle (hs : s.hook = none) (h : cycle draw s = .next t) : tick s = .next t := by
  obtain ⟨u, htick, h⟩ := andThen_completes h
  obtain ⟨-, -, hhook⟩ := tick_keeps_slice htick
  rwa [← h, hookCall_none draw u (hhook.trans hs)]

/-- Without a hook a loop that completes has run all its Ticks, and has counted them. -/
theorem ticks_of_runCycles {k i n : Nat} (hs : s.hook = none) (h : runCycles draw k i s = .next (t, n)) :
    ticks k s = .next t ∧ n = i + k := by
  induction k generalizing i s with
  | zero => cases h; exact ⟨rfl, rfl⟩
  | succ k ih =>
    rw [runCycles, hookStopped_of_no_hook hs, if_neg Bool.false_ne_true] at h
    obtain ⟨u, hcycle, hloop⟩ := andThen_completes h
    have htick := tick_of_cycle hs hcycle
    obtain ⟨-, -, hhook⟩ := tick_keeps_slice htick
    obtain ⟨hticks, hcount⟩ := ih (hhook.trans hs) hloop
    exact ⟨by rw [ticks, htick, andThen_next, hticks], by omega⟩

/-! ### One call (R352 to R358) -/

/-- A call without a hook that completes has run its number of Ticks, from the state that carries the remainder, and ended the slice. -/
theorem executeState_of_no_hook {us n : Nat} (hs : s.hook = none) (h : executeState draw us s = .next (t, n)) :
    n = cyclesOf s us ∧ ∃ u, ticks n { s with clkRem := cycleTotal s us % 1000000 } = .next u ∧ t = endSlice us u := by
  obtain ⟨⟨u, k⟩, hloop, h⟩ := andThen_completes h
  obtain ⟨hticks, hcount⟩ := ticks_of_runCycles (s := { s with clkRem := cycleTotal s us % 1000000 }) hs hloop
  cases h
  rw [hcount, Nat.zero_add]
  exact ⟨rfl, u, hticks, rfl⟩

/-- What such a call leaves for the next one. -/
theorem executeState_keeps_slice {us n : Nat} (hs : s.hook = none) (h : executeState draw us s = .next (t, n)) :
    t.params = s.params ∧ t.clkRem = cycleTotal s us % 1000000 ∧ t.hook = none := by
  obtain ⟨-, u, hticks, rfl⟩ := executeState_of_no_hook hs h
  obtain ⟨hparams, hrem, hhook⟩ := ticks_keeps_slice hticks
  rw [endSlice_params, endSlice_clkRem, endSlice_hook]
  exact ⟨hparams, hrem, hhook.trans hs⟩

/-- Settles O48: the loop is `ticks`, and no Tick changes the remainder or the collaborators whose keyboard ages. -/
theorem executeRunsExactlyItsCycles : Obligations.ExecuteRunsExactlyItsCycles := by
  intro draw s t us i hs h
  obtain ⟨-, hexec⟩ := checked_next h
  obtain ⟨hcount, u, hticks, ht⟩ := executeState_of_no_hook hs hexec
  obtain ⟨-, hrem, -⟩ := executeState_keeps_slice hs hexec
  obtain ⟨hparams, -, -⟩ := ticks_keeps_slice hticks
  exact ⟨hcount, hrem, u, hticks, by rw [ht, endSlice, hparams]⟩

/-- Settles O50: the loop ends before its first Tick, with a count of 0. -/
theorem stoppedExecuteRunsNoTick : Obligations.StoppedExecuteRunsNoTick := by
  intro draw s us hvalid hstopped
  have hloop (rem : Nat) : runCycles draw (cyclesOf s us) 0 { s with clkRem := rem } = .next ({ s with clkRem := rem }, 0) :=
    runCycles_stopped draw _ 0 _ hstopped
  rw [execute, checked_valid _ _ _ hvalid, executeState, hloop, andThen_next, endSlice, cycleTotal]

/-! ### A sequence of calls (R353) -/

/-- A call turns the accumulated millionths into whole Ticks and a remainder, and loses none. -/
theorem executeState_conserves {us n : Nat} (hs : s.hook = none) (h : executeState draw us s = .next (t, n)) :
    1000000 * n + t.clkRem = s.clkRem + us * s.params.clkHz := by
  obtain ⟨hcount, -⟩ := executeState_of_no_hook hs h
  obtain ⟨-, hrem, -⟩ := executeState_keeps_slice hs h
  rw [hcount, hrem, cyclesOf, Nat.div_add_mod, cycleTotal]

/-- Neither does a sequence of calls. The remainder it leaves is below a million when there is a call, or when it was so before. -/
theorem executeMany_conserves {us : List Nat} {n : Nat} (hs : s.hook = none) (h : executeMany draw us s = .next (t, n)) :
    1000000 * n + t.clkRem = s.clkRem + us.sum * s.params.clkHz ∧ (us ≠ [] ∨ s.clkRem < 1000000 → t.clkRem < 1000000) := by
  induction us generalizing s n with
  | nil => cases h; simp
  | cons us rest ih =>
    obtain ⟨⟨u, first⟩, hfirst, h⟩ := andThen_completes h
    obtain ⟨⟨v, others⟩, hothers, h⟩ := andThen_completes h
    cases h
    obtain ⟨hparams, hrem, hhook⟩ := executeState_keeps_slice hs hfirst
    obtain ⟨htotal, hbelow⟩ := ih hhook hothers
    have hconserves := executeState_conserves hs hfirst
    rw [hparams] at htotal
    refine ⟨?_, fun _ => hbelow (.inr (by rw [hrem]; exact Nat.mod_lt _ (by decide)))⟩
    rw [List.sum_cons, Nat.add_mul]
    omega

/-- Settles O49: the total is a million times the count and a remainder below a million, so they are its quotient and remainder. -/
theorem noCycleIsDroppedAcrossCalls : Obligations.NoCycleIsDroppedAcrossCalls := by
  intro draw us s t n hs h hne
  obtain ⟨htotal, hbelow⟩ := executeMany_conserves hs h
  have hlt := hbelow (.inl hne)
  omega

/-! ### The instance check (R351) -/

/-- An operation on a null instance faults. -/
theorem checked_null {α : Type} (op : HostOp) (f : State → Host.Outcome α Fault Refusal) :
    checked op none f = .fault (.nullArgument op) := rfl

/-- So does one on a judged argument, whatever the argument. -/
theorem checkedOffer_null {α : Type} (op : HostOp) (arg : Option (Offered α)) (effect : α → State → State) :
    checkedOffer op none arg effect = .fault (.nullArgument op) := checked_null op _

/-- DisplayInfo makes the second check itself. -/
theorem displayInfo_valid (P : Params) (hv : s.valid = true) :
    displayInfo P (some s) = .next (displayMetadata s.params (some s.fb)) := by
  simp only [displayInfo, hv, if_true]

theorem displayInfo_invalid (P : Params) (hv : s.valid = false) : displayInfo P (some s) = .fault (.invalidInstance .displayInfo) := by
  simp only [displayInfo, hv, Bool.false_eq_true, if_false]

/-- Settles O52: eight operations are `checked` or `checkedOffer`, and DisplayInfo checks a live instance alike. -/
theorem hostOperationsCheckTheInstance : Obligations.HostOperationsCheckTheInstance := by
  intro draw us key img snap P
  refine ⟨⟨checked_null _ _, checked_null _ _, checked_null _ _, checked_null _ _, checked_null _ _, checkedOffer_null _ _ _,
    checked_null _ _, checkedOffer_null _ _ _⟩, fun s hv => ?_⟩
  exact ⟨checked_invalid _ s _ hv, checked_invalid _ s _ hv, checked_invalid _ s _ hv, checked_invalid _ s _ hv,
    checked_invalid _ s _ hv, checkedOffer_invalid _ s _ _ hv, checked_invalid _ s _ hv, checkedOffer_invalid _ s _ _ hv,
    displayInfo_invalid P hv⟩

/-! ### The display metadata (R361) -/

/-- Settles O59, by whether the call has an instance. -/
theorem displayInfoGivesTheGeometry : Obligations.DisplayInfoGivesTheGeometry := by
  intro P s hv live hlive
  have hcases : live = none ∨ live = some s := by simpa using hlive
  rcases hcases with rfl | rfl
  · exact ⟨displayMetadata P none, rfl, rfl, rfl, rfl, rfl, rfl, Vector.length_toList, rfl, rfl⟩
  · exact ⟨displayMetadata s.params (some s.fb), displayInfo_valid P hv, rfl, rfl, rfl, rfl, rfl, Vector.length_toList, rfl, rfl⟩

/-! ### Key events, loads and snapshots (R362, R363) -/

/-- The CPU fetches next from the entry address it was set to (log entry 6). -/
theorem cpuNextFetch_cpuSetEntry (C : Collaborators) (c : CpuState) (a : Addr) : cpuNextFetch (cpuSetEntry C c a) = a := by
  cases c <;> rfl

/-- An accepted load stores its writes, in order. -/
theorem loadState_ram (img : LoadImage) (s : State) :
    (loadState img s).ram = (img.writes.foldl (fun u w => memWrite u w.1 w.2) s).ram := by
  rw [loadState_frame, memWriteAll_foldl]

/-- Without an entry address an accepted load leaves the CPU. -/
theorem loadState_cpu_of_no_entry {img : LoadImage} (h : img.entry = none) (s : State) : (loadState img s).cpu = s.cpu := by
  simp only [loadState, h]
  rw [memWriteAll_frame]

/-- With one it sets the CPU's. -/
theorem loadState_cpu_of_entry {img : LoadImage} {a : Addr} (h : img.entry = some a) (s : State) :
    (loadState img s).cpu = cpuSetEntry s.params.chips s.cpu a := by
  simp only [loadState, h]

/-- Settles O60: on a valid instance each operation is its effect, and the effects of a load and of a snapshot are known field by
field. -/
theorem hostEventsAndLoadsChangeWhatTheyName : Obligations.HostEventsAndLoadsChangeWhatTheyName := by
  intro s key hv
  refine ⟨⟨_, checked_valid _ s _ hv, rfl⟩, ⟨_, checked_valid _ s _ hv, rfl⟩, checkedOffer_valid _ s _ _ hv,
    checkedOffer_valid _ s _ _ hv, checkedOffer_valid _ s _ _ hv, checkedOffer_valid _ s _ _ hv, checked_valid _ s _ hv,
    fun img => ⟨loadState img s, checkedOffer_valid _ s _ _ hv, ?_, loadState_ram img s, fun hentry => loadState_cpu_of_no_entry hentry s,
      fun a hentry => ?_⟩, fun u => ?_⟩
  · rw [loadState_frame]
  · rw [loadState_cpu_of_entry hentry]
    exact ⟨rfl, cpuNextFetch_cpuSetEntry _ _ _⟩
  · rw [loadSnapshot, checkedOffer_valid _ s _ _ hv]
    simp only [restoredState, hv]

end Sys2Proof.Machine
end

section
/-! The interrupt acknowledge (60_exceptions R414): it reaches all three devices with its address, and under the acknowledge contract the
device that answers leaves the later ones nothing to answer. -/

namespace Sys2Proof.Machine

/-! ### The acknowledge on the devices' words -/

/-- All three devices see the CPU's word in the signals every stage passes: all canonical ones but D, INT and IEIO (R21). -/
theorem bit_deviceWord {C : Collaborators} {s : State} {q : Pins} (hq : q ∈ [pio1Input s, pio2Word C s, ctcWord C s]) (n : Nat)
    (h : n < 40) (hd : n < 16 ∨ 24 ≤ n) (hi : n ≠ 30) (he : n ≠ 37) : Bus.bit n q = Bus.bit n s.pins := by
  simp only [List.mem_cons, List.not_mem_nil, or_false] at hq
  obtain rfl | rfl | rfl := hq
  · exact bit_pio1Input n s h he
  · exact bit_pio2Word n C s h hd hi he
  · exact bit_ctcWord n C s h hd hi he

/-- All three devices see the CPU's acknowledge. -/
theorem isInta_deviceWord {C : Collaborators} {s : State} {q : Pins} (hq : q ∈ [pio1Input s, pio2Word C s, ctcWord C s]) :
    Bus.isInta q = Bus.isInta s.pins := by
  unfold Bus.isInta Bus.m1 Bus.iorq
  rw [bit_deviceWord hq 24 (by omega) (by omega) (by omega) (by omega), bit_deviceWord hq 26 (by omega) (by omega) (by omega) (by omega)]

/-- All three devices see the CPU's address. -/
theorem addr_deviceWord {C : Collaborators} {s : State} {q : Pins} (hq : q ∈ [pio1Input s, pio2Word C s, ctcWord C s]) :
    Bus.addr q = Bus.addr s.pins :=
  field_congr 0 16 _ _ fun n _ hn => bit_deviceWord hq n (by omega) (by omega) (by omega) (by omega)

/-- An acknowledge is an I/O request with M1, whatever else the word holds. -/
theorem ioRequest_of_isInta {p : Pins} (hinta : Bus.isInta p = true) :
    IoRequest (Bus.aSel p) (Bus.data p) (Bus.rd p) (Bus.wr p) true p := by
  obtain ⟨hm1, hiorq⟩ := (isInta_iff p).1 hinta
  exact ⟨hiorq, rfl, rfl, rfl, rfl, hm1⟩

/-- Settles O19: the presented word is an acknowledge at the row's address, no stage before a device writes those signals, and the data
field floats exactly when no device answers. -/
theorem acknowledgeReachesThePeripheralsInOrder : Obligations.AcknowledgeReachesThePeripheralsInOrder := by
  intro s a
  have hinta : Bus.isInta (presentRow (.inta a) s).pins = true :=
    (isInta_iff _).2 ⟨present_inta_m1 s.params a s.pins, present_inta_iorq s.params a s.pins⟩
  have haddr : Bus.addr (presentRow (.inta a) s).pins = a := present_inta_addr s.params a s.pins
  obtain ⟨hpins, hdraws⟩ := (ioRequest_of_isInta hinta).leavesBus
  simp only [Bool.or_true, Bool.true_and, Bool.not_eq_true', ← Bool.not_eq_true, ite_not] at hpins hdraws
  exact ⟨_, exec_peripheral (.inta a) s rfl,
    fun q hq => ⟨(isInta_deviceWord hq).trans hinta, (addr_deviceWord hq).trans haddr⟩, rfl, rfl, rfl, hpins, hdraws⟩

/-! ### Who answers an acknowledge (R414, R261) -/

section
variable {C : Collaborators} (hC : AckContract C) {p : Pins} (hinta : Bus.isInta p = true)
include hC hinta

/-- A controller that answers an acknowledge leaves its enable output 0. -/
theorem AckContract.ieio_pioTick_of_answer (st : PioState) (h : (pioData (C.pioTick st p) p).isSome = true) :
    Bus.ieio (pioTick C st p).2 = false := by
  rw [pioData_inta _ p hinta] at h
  rw [ieio_pioTick, (hC.pio st p hinta h).2, Bool.and_false]

/-- A controller with its enable input 0 answers no acknowledge. -/
theorem AckContract.pioData_of_blocked (st : PioState) (hblocked : Bus.ieio p = false) : pioData (C.pioTick st p) p = none := by
  rw [pioData_inta _ p hinta, ← Option.not_isSome_iff_eq_none]
  intro hanswer
  have henabled : Bus.ieio p = true := (hC.pio st p hinta hanswer).1
  exact Bool.false_ne_true (hblocked.symm.trans henabled)

/-- The counter/timer with its enable input 0 answers no acknowledge. -/
theorem AckContract.ctcData_of_blocked (st : CtcState) (hblocked : Bus.ieio p = false) : (C.ctcTick st p).data = none := by
  rw [← Option.not_isSome_iff_eq_none]
  intro hanswer
  have henabled : Bus.ieio p = true := (hC.ctc st p hinta hanswer).1
  exact Bool.false_ne_true (hblocked.symm.trans henabled)

end

/-- Settles O26: the device that answers blocks the later ones, and a blocked device does not answer. -/
theorem atMostOneDeviceAnswersAnAcknowledge : Obligations.AtMostOneDeviceAnswersAnAcknowledge := by
  intro C s hC hinta
  have hword : ∀ q ∈ [pio1Input s, pio2Word C s, ctcWord C s], Bus.isInta q = true := fun q hq => (isInta_deviceWord hq).trans hinta
  have h1 : Bus.isInta (pio1Input s) = true := hword _ (by simp)
  have h2 : Bus.isInta (pio2Word C s) = true := hword _ (by simp)
  have hc : Bus.isInta (ctcWord C s) = true := hword _ (by simp)
  obtain ⟨hblock1, hblock2⟩ := busyDeviceBlocksTheLaterOnes C s
  constructor
  · intro hanswer
    obtain ⟨hpio2, hctc, -⟩ := hblock1 (hC.ieio_pioTick_of_answer h1 s.pio1 hanswer)
    exact ⟨hC.pioData_of_blocked h2 s.pio2 hpio2, hC.ctcData_of_blocked hc s.ctc hctc⟩
  · intro hanswer
    obtain ⟨hctc, -⟩ := hblock2 (hC.ieio_pioTick_of_answer h2 s.pio2 hanswer)
    exact hC.ctcData_of_blocked hc s.ctc hctc

end Sys2Proof.Machine
end

section
/-! Init, Reset and Discard (70_reset_and_hazards R450 to R458). Init's checks are taken in the order it makes them: the images that are
missing, the images of a wrong size, and then the settings. What passes them all is enough for the invariant of the state Init builds. -/

namespace Sys2Proof.Machine

/-! ### The sizes of the images (R450, R451) -/

section
variable {ns : List Nat} {ims : List (List Byte)}

/-- A given list of ROM images has none missing unless it is shorter than the variant's. -/
theorem romMissing_map_some (h : ims.length = ns.length) : romMissing ns (ims.map some) = false := by
  simp [romMissing, h]

/-- Images of the expected sizes pass their check. -/
theorem romMismatch_of_sizes (k : Nat) (h : ims.map List.length = ns) : romMismatch k ns (ims.map some) = none := by
  subst h
  induction ims generalizing k with
  | nil => rw [List.map_nil, List.map_nil, romMismatch]
  | cons im ims ih =>
    rw [List.map_cons, List.map_cons, romMismatch, Option.getD_some, if_pos rfl]
    exact ih (k + 1)

/-- As many images as expected, but not all of the expected sizes: the check names one whose size is another than it expected. -/
theorem romMismatch_of_wrong_sizes (k : Nat) (hcount : ims.length = ns.length) (h : ims.map List.length ≠ ns) :
    ∃ j e g, e ≠ g ∧ romMismatch k ns (ims.map some) = some (.romSizeMismatch (.rom j) e g) := by
  induction ims generalizing k ns with
  | nil => exact absurd (List.length_eq_zero_iff.1 hcount.symm).symm h
  | cons im ims ih =>
    obtain ⟨n, ns, rfl⟩ := List.exists_cons_of_length_eq_add_one hcount.symm
    rw [List.map_cons, romMismatch, Option.getD_some]
    by_cases hsize : im.length = n
    · rw [if_pos hsize]
      exact ih (k + 1) (by simpa using hcount) (by simpa [hsize] using h)
    · rw [if_neg hsize]
      exact ⟨k, n, im.length, Ne.symm hsize, rfl⟩

/-- Given images' bytes are their concatenation. -/
theorem romBytes_map_some (ims : List (List Byte)) : romBytes (ims.map some) = ims.flatten := by
  simp [romBytes, List.flatMap_map, List.flatMap_id']

end

theorem fontMismatch_of_size {f : List Byte} (h : f.length = fontSize) : fontMismatch (some f) = none := if_pos h

theorem fontMismatch_of_wrong_size {f : List Byte} (h : f.length ≠ fontSize) :
    fontMismatch (some f) = some (.romSizeMismatch .font fontSize f.length) := if_neg h

theorem fontMismatch_none {font : Option (List Byte)} (h : fontMismatch font = none) : (font.getD []).length = fontSize := by
  rw [fontMismatch] at h
  split at h
  case isTrue hsize => exact hsize
  case isFalse => cases h

/-! ### The settings, the checks after those of the images (R451) -/

/-- The fault of Init's checks that read no image: the sample count's, then those of 00_scope R27. -/
def settingsFault (cfg : InitConfig) : Option Fault :=
  if cfg.params.maxAudioSamples < cfg.audioCount then some (.audioBufferOversize cfg.audioCount)
  else (failedCheck cfg.params cfg.variant (audioCountOf cfg.params cfg.audioCount)).map .configIllFormed

section
variable {cfg : InitConfig}

theorem settingsFault_of_oversize (h : cfg.params.maxAudioSamples < cfg.audioCount) :
    settingsFault cfg = some (.audioBufferOversize cfg.audioCount) := if_pos h

/-- A configuration that is not well formed has a check that fails. -/
theorem settingsFault_of_illFormed (hcount : cfg.audioCount ≤ cfg.params.maxAudioSamples)
    (h : configWf cfg.params cfg.variant (audioCountOf cfg.params cfg.audioCount) = false) :
    ∃ c, settingsFault cfg = some (.configIllFormed c) := by
  have hfails : failedCheck cfg.params cfg.variant (audioCountOf cfg.params cfg.audioCount) ≠ none := fun hnone =>
    Bool.false_ne_true (h.symm.trans ((failedCheck_none _ _ _).1 hnone))
  obtain ⟨c, hc⟩ := Option.ne_none_iff_exists'.1 hfails
  exact ⟨c, by rw [settingsFault, if_neg (Nat.not_lt.2 hcount), hc, Option.map_some]⟩

/-- The settings pass exactly when the count fits and the configuration is well formed. -/
theorem settingsFault_eq_none_iff : settingsFault cfg = none ↔ cfg.audioCount ≤ cfg.params.maxAudioSamples ∧
    configWf cfg.params cfg.variant (audioCountOf cfg.params cfg.audioCount) = true := by
  rw [settingsFault, ← failedCheck_none]
  split_ifs with h
  · exact ⟨nofun, fun hpass => absurd hpass.1 (Nat.not_le.2 h)⟩
  · rw [Option.map_eq_none_iff, and_iff_right (Nat.not_lt.1 h)]

/-! ### Init's checks in their order (R451) -/

/-- A missing image is the first thing Init finds. -/
theorem initFault_of_missing (h : cfg.font = none ∨ none ∈ cfg.romImages) : initFault cfg = some (.nullArgument .init) := by
  refine if_pos ?_
  rcases h with hfont | hrom
  · rw [hfont, Option.isNone_none, Bool.or_true]
  · have hany : cfg.romImages.any (fun im => im.isNone) = true := List.any_eq_true.2 ⟨none, hrom, rfl⟩
    rw [romMissing, hany, Bool.true_or, Bool.true_or]

/-- With no image missing, Init's checks are the ROM images' sizes, then the font's, then the settings. -/
theorem initFault_of_present (hrom : romMissing (romImages cfg.params cfg.variant) cfg.romImages = false)
    (hfont : cfg.font.isNone = false) : initFault cfg =
      (romMismatch 0 (romImages cfg.params cfg.variant) cfg.romImages).or ((fontMismatch cfg.font).or (settingsFault cfg)) := by
  rw [initFault, hrom, hfont, Bool.or_false, if_neg Bool.false_ne_true, settingsFault]
  cases romMismatch 0 (romImages cfg.params cfg.variant) cfg.romImages with
  | some f => rfl
  | none =>
    cases fontMismatch cfg.font with
    | some f => rfl
    | none =>
      cases failedCheck cfg.params cfg.variant (audioCountOf cfg.params cfg.audioCount) <;> rfl

section
variable {f : List Byte} {ims : List (List Byte)} (hfont : cfg.font = some f) (hrom : cfg.romImages = ims.map some)
include hfont hrom

/-- As many images as the variant has, one of them or the font of a wrong size: the fault tells the size expected from the one given. -/
theorem initFault_of_wrong_sizes (hcount : ims.length = (romImages cfg.params cfg.variant).length)
    (h : ims.map List.length ≠ romImages cfg.params cfg.variant ∨ f.length ≠ 2048) :
    ∃ im e g, e ≠ g ∧ initFault cfg = some (.romSizeMismatch im e g) := by
  rw [initFault_of_present (by rw [hrom]; exact romMissing_map_some hcount) (by rw [hfont]; rfl), hfont, hrom]
  by_cases hsizes : ims.map List.length = romImages cfg.params cfg.variant
  · have hf : f.length ≠ fontSize := h.resolve_left (not_not_intro hsizes)
    rw [romMismatch_of_sizes 0 hsizes, fontMismatch_of_wrong_size hf]
    exact ⟨.font, fontSize, f.length, hf.symm, rfl⟩
  · obtain ⟨j, e, g, hne, hfault⟩ := romMismatch_of_wrong_sizes 0 hcount hsizes
    exact ⟨.rom j, e, g, hne, by rw [hfault, Option.some_or]⟩

/-- With all images of the variant's sizes the settings are left to check. -/
theorem initFault_of_sizes (hsizes : ims.map List.length = romImages cfg.params cfg.variant) (hf : f.length = 2048) :
    initFault cfg = settingsFault cfg := by
  have hcount : ims.length = (romImages cfg.params cfg.variant).length := by rw [← hsizes, List.length_map]
  rw [initFault_of_present (by rw [hrom]; exact romMissing_map_some hcount) (by rw [hfont]; rfl), hfont, hrom,
    romMismatch_of_sizes 0 hsizes, fontMismatch_of_size hf, Option.none_or, Option.none_or]

end

/-- A configuration that passes all checks has images of the variant's sizes, and passes the settings' checks. -/
theorem sizes_of_initFault_none (h : initFault cfg = none) :
    (cfg.romImages.map fun im => (im.getD []).length) = romImages cfg.params cfg.variant ∧ (cfg.font.getD []).length = fontSize ∧
      settingsFault cfg = none := by
  have hpresent : ¬ (romMissing (romImages cfg.params cfg.variant) cfg.romImages || cfg.font.isNone) = true := fun hmissing => by
    rw [initFault, if_pos hmissing] at h
    cases h
  obtain ⟨hrom, hfont⟩ := Bool.or_eq_false_iff.1 (Bool.eq_false_iff.2 hpresent)
  rw [initFault_of_present hrom hfont, Option.or_eq_none_iff, Option.or_eq_none_iff] at h
  obtain ⟨hsizes, hfontSize, hsettings⟩ := h
  have hcount : (romImages cfg.params cfg.variant).length ≤ cfg.romImages.length := by
    obtain ⟨-, hlt⟩ := Bool.or_eq_false_iff.1 hrom
    exact Nat.not_lt.1 (of_decide_eq_false hlt)
  exact ⟨romMismatch_none hsizes hcount, fontMismatch_none hfontSize, hsettings⟩

/-! ### Init on an instance -/

variable {s t : State}

theorem initOp_of_fault {r : Fault} (h : initFault cfg = some r) : initOp (some s) (some cfg) = .fault r := by rw [initOp, h]

theorem initOp_of_pass (h : initFault cfg = none) : initOp (some s) (some cfg) = .next (initState s cfg) := by rw [initOp, h]

/-- An Init that completes has passed its checks and left the state it builds. -/
theorem initOp_next (h : initOp (some s) (some cfg) = .next t) : initFault cfg = none ∧ t = initState s cfg := by
  cases hfault : initFault cfg with
  | some r => rw [initOp_of_fault hfault] at h; cases h
  | none => rw [initOp_of_pass hfault] at h; cases h; exact ⟨rfl, rfl⟩

/-- Settles O53: the images' checks come first, and when they pass what is left is the settings' checks. -/
theorem initChecksInOrder : Obligations.InitChecksInOrder := by
  intro s cfg
  refine ⟨fun _ => rfl, rfl, fun h => initOp_of_fault (initFault_of_missing h), fun f ims hfont hrom => ⟨fun hcount hwrong => ?_,
    fun hsizes hf => ?_⟩⟩
  · obtain ⟨im, e, g, hne, hfault⟩ := initFault_of_wrong_sizes hfont hrom hcount hwrong
    exact ⟨im, e, g, hne, initOp_of_fault hfault⟩
  · have hsettings := initFault_of_sizes hfont hrom hsizes hf
    refine ⟨fun hover => ?_, fun hcount hill => ?_, fun hcount hwf => ?_⟩
    · exact initOp_of_fault (hsettings.trans (settingsFault_of_oversize hover))
    · obtain ⟨c, hc⟩ := settingsFault_of_illFormed hcount hill
      exact ⟨c, initOp_of_fault (hsettings.trans hc)⟩
    · exact initOp_of_pass (hsettings.trans (settingsFault_eq_none_iff.2 ⟨hcount, hwf⟩))

/-! ### The state Init builds (R452 to R454) -/

/-- `PINS_INIT` has canonical bits only. -/
theorem canonical_setWidth (p : BitVec 40) : Bus.Canonical (p.setWidth 64) := by
  apply BitVec.eq_of_toNat_eq
  rw [Bus.mask, BitVec.toNat_and, show Bus.canon.toNat = 2 ^ 40 - 1 from rfl, Nat.and_two_pow_sub_one_eq_mod, BitVec.toNat_setWidth]
  omega

/-- A well-formed configuration's sample count is positive. -/
theorem audioCount_pos {P : Params} {v : Variant} {n : Nat} (h : configWf P v n = true) : 0 < n := by
  simp only [configWf, configChecks, List.all_cons, Bool.and_eq_true, decide_eq_true_eq] at h
  omega

/-- The state Init builds from a configuration that passes its checks meets the invariant: its blocks hold lists no longer than they
are, and everything that counts starts at 0. -/
theorem inv_initState (old : State) (h : initFault cfg = none) : Inv (initState old cfg) := by
  obtain ⟨hrom, hfont, hsettings⟩ := sizes_of_initFault_none h
  obtain ⟨-, hwf⟩ := settingsFault_eq_none_iff.1 hsettings
  have hramSize : (ramFill cfg).length ≤ cfg.params.ramSize := List.length_take_le _ _
  have hromSize : (romBytes cfg.romImages).length = romSize cfg.params cfg.variant := by
    rw [romBytes_length, hrom, romSize_eq]
  exact {
    valid := rfl
    config := hwf
    map := rfl
    cellsForm := (memoriesWf_iff _).2 ⟨cellsWf_of _ _, cellsWf_of _ _, cellsWf_of _ _, rfl, rfl⟩
    cellsSize := (memoriesSized_iff _).2 ⟨cellsBelow_mono hramSize (cellsBelow_of _ _), cellsBelow_mono hromSize.le (cellsBelow_of _ _),
      cellsBelow_mono hfont.le (cellsBelow_of _ _), rfl, rfl⟩
    pins := canonical_setWidth _
    audioPos := audioCount_pos hwf
    clkRem := Nat.zero_lt_succ _
    blinkCounter := Nat.zero_le _
    blinkFF := BitVec.zero_and }

/-- A block built from a list holds the list's cells. -/
theorem cellRead_cellsOf_of_getElem? {α : Type} [DecidableEq α] (bg : Nat → α) {vs : List α} {i : Nat} {v : α} (h : vs[i]? = some v) :
    cellRead bg (cellsOf bg vs) i = v := by
  rw [cellRead_of, h, Option.getD_some]

/-- RAM holds the configuration's byte where it gives one inside the block (R453). -/
theorem initState_ram_of_given (old : State) {i : Nat} {b : Byte} (hi : i < cfg.params.ramSize) (hb : cfg.initRam[i]? = some b) :
    cellRead ramBg (initState old cfg).ram i = b :=
  cellRead_cellsOf_of_getElem? ramBg (by rw [ramFill, List.getElem?_take_of_lt hi, hb])

/-- Past the configuration's bytes RAM holds the machine's own (log entry 13). -/
theorem initState_ram_past_given (old : State) {i : Nat} (hi : cfg.initRam.length ≤ i) :
    cellRead ramBg (initState old cfg).ram i = Config.initRam i := by
  have hpast : (ramFill cfg).length ≤ i := (List.length_take_le' _ _).trans hi
  exact (cellRead_of ramBg _ i).trans (by rw [List.getElem?_eq_none hpast, Option.getD_none, ramBg])

/-- Settles O54: the state Init builds meets the invariant, and each block reads as the list it was built from. -/
theorem initWritesEveryField : Obligations.InitWritesEveryField := by
  intro s t cfg h
  obtain ⟨hpass, rfl⟩ := initOp_next h
  -- The fields Init writes as they stand, then the blocks.
  refine ⟨inv_initState s hpass, rfl, rfl, rfl, cpuNextFetch_cpuSetEntry _ _ _, rfl, rfl, rfl, rfl, rfl, rfl, rfl, rfl, rfl, rfl, rfl, rfl,
    rfl, rfl, rfl, rfl, fun i b hi hb => initState_ram_of_given s hi hb, fun i hi => initState_ram_past_given s hi, fun _ => rfl,
    fun f i b hfont hb => ?_, fun ims i b hrom hb => ?_⟩
  · exact cellRead_cellsOf_of_getElem? fontBg (by rw [hfont, Option.getD_some, hb])
  · exact cellRead_cellsOf_of_getElem? romBg (by rw [hrom, romBytes_map_some, hb])

end

/-! ### The reference configuration (log entries 1 to 3) -/

/-- A block whose bytes are split over two images is the block. -/
theorem map_range_append_map_range {α : Type} (g : Nat → α) (m n : Nat) :
    ((List.range m).map g ++ (List.range n).map fun i => g (m + i)) = (List.range (m + n)).map g := by
  rw [List.range_add, List.map_append, List.map_map]; rfl

/-- The reference configuration, with images and a RAM fill of its own. -/
def referenceConfig (rom0 rom1 font ram : List Byte) : InitConfig :=
  { variant := .color, params := referenceParams, cpu := .chip, romImages := [some rom0, some rom1], font := some font, initRam := ram
    hook := none, audioCallback := 0, audioRate := 0, audioCount := 0, audioVolume := 0 }

section
variable {rom0 rom1 font ram : List Byte}

/-- It passes Init's checks when its images have the reference sizes. -/
theorem initFault_referenceConfig (h0 : rom0.length = 0x2000) (h1 : rom1.length = 0x2000) (hfont : font.length = 2048) :
    initFault (referenceConfig rom0 rom1 font ram) = none := by
  have hsizes : [rom0, rom1].map List.length = romImages referenceParams .color := by
    rw [List.map_cons, List.map_cons, List.map_nil, h0, h1]; rfl
  rw [initFault_of_sizes (ims := [rom0, rom1]) rfl rfl hsizes hfont]
  exact settingsFault_eq_none_iff.2 ⟨Nat.zero_le _, referenceParams_configWf⟩

/-- Where its bytes are the blocks' backgrounds, Init leaves the reset state. -/
theorem initState_referenceConfig {s : State} (hdraws : s.draws = 0) (hrom : cellsOf romBg (rom0 ++ rom1) = [])
    (hfont : cellsOf fontBg font = []) (hram : cellsOf ramBg (ram.take 65536) = []) :
    initState s (referenceConfig rom0 rom1 font ram) = State.reset := by
  have hbytes : romBytes (referenceConfig rom0 rom1 font ram).romImages = rom0 ++ rom1 :=
    (romBytes_map_some [rom0, rom1]).trans (by rw [List.flatten_cons, List.flatten_cons, List.flatten_nil, List.append_nil])
  have hgiven : (referenceConfig rom0 rom1 font ram).font.getD [] = font := rfl
  have hfill : ramFill (referenceConfig rom0 rom1 font ram) = ram.take 65536 := rfl
  rw [initState, hbytes, hgiven, hfill, hrom, hfont, hram, hdraws]
  rfl

end

/-- Settles O55: the images have the reference sizes, and each block is filled with its own background, so it lists no cell. -/
theorem referenceInitGivesTheResetState : Obligations.ReferenceInitGivesTheResetState := by
  intro s hdraws
  have hlength (g : Nat → Byte) (n : Nat) : ((List.range n).map g).length = n := by rw [List.length_map, List.length_range]
  have hrom : cellsOf romBg ((List.range 0x2000).map romBg ++ (List.range 0x2000).map fun i => romBg (0x2000 + i)) = [] := by
    rw [map_range_append_map_range]
    exact cellsOf_background romBg _
  have hram : cellsOf ramBg (((List.range 65536).map ramBg).take 65536) = [] := by
    rw [List.take_of_length_le (hlength _ _).le]
    exact cellsOf_background ramBg _
  have hpass := initFault_referenceConfig (ram := (List.range 65536).map ramBg) (hlength romBg 0x2000)
    (hlength (fun i => romBg (0x2000 + i)) 0x2000) (hlength fontBg 2048)
  exact (initOp_of_pass hpass).trans (congrArg _ (initState_referenceConfig hdraws hrom (cellsOf_background fontBg _) hram))

/-! ### Reset and Discard (R455 to R458) -/

/-- Settles O56: on a valid instance Reset leaves `resetState`. -/
theorem resetReinitialisesCpuAndChips : Obligations.ResetReinitialisesCpuAndChips := by
  intro s hv
  exact ⟨resetState s, checked_valid _ s _ hv, rfl, rfl, rfl, rfl, rfl, rfl, rfl, rfl⟩

/-- A step keeps what Reset reads: the parameters and the audio configuration. -/
theorem step_keeps_configuration {s t : State} (h : step s = .next t) : t.params = s.params ∧ t.audioCfg = s.audioCfg := by
  rw [step, stepCycle] at h
  split at h
  · obtain ⟨u, htick, h⟩ := andThen_completes h
    cases h
    obtain ⟨-, -, -, -, -, hparams, -, -, -, haudio, -⟩ := noBusCycleReachesTheConfiguration s u htick
    exact ⟨hparams, haudio⟩
  · cases h

/-- A run of one step more that completes is a step and the rest of the run. -/
theorem run_succ_next {M : Host.Core} {n : Nat} {s t : M.State} (h : M.run (n + 1) s = .next t) :
    ∃ u, M.step s = .next u ∧ M.run n u = .next t := by
  rw [Host.Core.run] at h
  split at h
  case h_1 u hstep => exact ⟨u, hstep, h⟩
  all_goals cases h

/-- So does a run of any length. -/
theorem run_keeps_configuration {n : Nat} {s t : State} (h : Host.Core.run Sys2Proof.core n s = .next t) :
    t.params = s.params ∧ t.audioCfg = s.audioCfg := by
  induction n generalizing s with
  | zero => cases h; exact ⟨rfl, rfl⟩
  | succ n ih =>
    obtain ⟨u, hstep, hrest⟩ := run_succ_next h
    obtain ⟨hparams, haudio⟩ := step_keeps_configuration hstep
    obtain ⟨hparams', haudio'⟩ := ih hrest
    exact ⟨hparams'.trans hparams, haudio'.trans haudio⟩

/-- Settles O57: Reset writes these fields from the parameters and the audio configuration, which the run has kept. -/
theorem resetRestoresTheEntryAddress : Obligations.ResetRestoresTheEntryAddress := by
  intro n s t u hrun hreset
  obtain ⟨-, hu⟩ := checked_next hreset
  obtain ⟨hparams, haudio⟩ := run_keeps_configuration hrun
  cases hu
  rw [← hparams, ← haudio]
  exact ⟨cpuNextFetch_cpuSetEntry _ _ _, rfl, rfl, rfl, rfl, rfl⟩

/-- Settles O58: Discard clears `valid`, which Execute checks and Init does not. -/
theorem discardMakesTheInstanceInvalid : Obligations.DiscardMakesTheInstanceInvalid := by
  intro s hv
  exact ⟨discardState s, checked_valid _ s _ hv, rfl, fun us draw => checked_invalid _ _ _ rfl, fun cfg hpass => initOp_of_pass hpass⟩

end Sys2Proof.Machine
end
